-- ==== Sys2Proof/Word.lean ====
section
/-! DEFINITION. The word types of FRAMER (spec/00_scope.md R8, R10: every value is an unsigned
integer of its stated width) and nothing else: field extraction and byte order stand in
Decode.lean, Machine/Operands.lean and Machine/Flags.lean. -/

namespace Sys2Proof

/-- One byte of the stream, of a payload or of a frame (R8). -/
abbrev Byte := BitVec 8

/-- One payload word: a whole Packet Store slot (R8, R35). -/
abbrev Word := BitVec 32

/-- One frame word: the eight bytes of a frame, and the width of a response's DATA (R36, R53). -/
abbrev FrameWord := BitVec 64

/-- One request word `REQ` (R52). -/
abbrev ReqWord := BitVec 40

/-- One response word `RESP` (R53). -/
abbrev RespWord := BitVec 72

end Sys2Proof
end

