-- ==== Sys2Proof/Syntax.lean ====
section
/-! DEFINITION. The names of FRAMER: its ports, its requests (one constructor of Instr per row of
spec/opcode_table.json), the causes of a rejection, the result codes, the parse statuses and the
five parser states. -/

namespace Sys2Proof

/-- The two request ports (R9, R52). A request's port is not part of its word. -/
inductive Port where
  /-- Port I, the ingestion path: the only port that may parse (R60). -/
  | portI
  /-- Port C, the consumer side. -/
  | portC
  deriving DecidableEq, Repr

/-- The requests of FRAMER, one constructor per row of the opcode table (R2, R57). PUSH and PUBLISH
are internal operations and have no constructor (R64). -/
inductive Instr where
  /-- PARSE: feed one received byte to the Frame Parser (R68). -/
  | parse (b : Byte)
  /-- ENCODE: frame a 4-byte payload (R94). -/
  | encode (w : Word)
  /-- READ: read one Packet Store slot through the visible view (R91). -/
  | read (i : Byte)
  /-- CURSOR: read the visible write cursor (R93). -/
  | cursor
  deriving DecidableEq, Repr

/-- Why a request is rejected (R54, R99 to R102), in the order in which the causes are reported
(R103). -/
inductive Reject where
  | badOpcode
  | badPort
  | badReserved
  | badIndex
  deriving DecidableEq, Repr

/-- The result code of a request (R54). -/
inductive ResultCode where
  | ok
  | rejected (cause : Reject)
  deriving DecidableEq, Repr

/-- The parse status of an accepted PARSE (R55). -/
inductive ParseStatus where
  | inProgress
  | complete
  | error
  deriving DecidableEq, Repr

/-- The parser state: five values and no sixth (R18). -/
inductive PState where
  | waitHead1
  | waitHead2
  | receiveData
  | waitTail1
  | waitTail2
  deriving DecidableEq, Repr

end Sys2Proof
end

