-- ==== Sys2Proof/Config.lean ====
section
/-! DEFINITION. What is fixed when a FRAMER is built (spec/00_scope.md R7), and the free values: the
values the spec leaves unconstrained, each an opaque constant of which nothing can be proved. -/

namespace Sys2Proof

/-- When a push becomes visible to READ and CURSOR (R7 `STORE_VIS`, R45, R46). -/
inductive StoreVis where
  | lag1
  | atomic
  deriving DecidableEq, Repr

/-- The parameters of one FRAMER (R7). The capacity is held as the index of the last slot, so that
every value of this type has `N` in 1..256 and an out-of-range `N` cannot be written
(spec/93_implementation_defined.md item 17: refuse the configuration). -/
structure Config where
  /-- `N - 1`, the index of the last slot. -/
  lastSlot : Fin 256
  /-- `H1`, first header byte. -/
  h1 : Byte
  /-- `H2`, second header byte. -/
  h2 : Byte
  /-- `T1`, first trailer byte. -/
  t1 : Byte
  /-- `T2`, second trailer byte. -/
  t2 : Byte
  /-- `STORE_VIS`. -/
  vis : StoreVis
  deriving DecidableEq, Repr

namespace Config

/-- `N`, the number of Packet Store slots (R7). -/
def n (c : Config) : Nat := c.lastSlot.val + 1

/-- The default parameters (R7): `N` = 10, `H1 H2 T1 T2` = AA AF FA FF, `STORE_VIS` = `LAG1`. -/
def reference : Config :=
  { lastSlot := 9, h1 := 0xAA, h2 := 0xAF, t1 := 0xFA, t2 := 0xFF, vis := .lag1 }

/-- DESIGN CHOICE (log entry 4), safe. The `draw()` of R13 that a READ of a slot never written
returns (R44, R91): a free value. Its arguments are the count of draws made so far, so that two
draws of one run may differ, the slot's index and the stale word the slot holds, so that the value
may also depend on those ("indeterminate/stale data", R24). -/
opaque draw (draws i : Nat) (stale : Word) : Word

/-- DESIGN CHOICE (log entry 5), safe. The bytes of `st.buf` after reset (R31: unspecified), given
what the buffer held. -/
opaque resetBuf (draws : Nat) (held : Vector Byte 4) : Vector Byte 4

/-- DESIGN CHOICE (log entry 5), safe. The content of slot `i` after reset (R31: unspecified), given
what the store held. -/
opaque resetSlot (draws : Nat) (held : List Word) (i : Nat) : Word

/-- DESIGN CHOICE (log entry 5), safe. `st.pidx` after reset before it is reduced to 0..N-1 (R31:
unspecified within its range). -/
opaque resetPidx (draws held : Nat) : Nat

/-- DESIGN CHOICE (log entry 5), safe. `st.pold` after reset (R31: unspecified). -/
opaque resetPold (draws : Nat) (held : Word) : Word

/-- DESIGN CHOICE (log entry 5), safe. `st.poldw` after reset (R31: unspecified). -/
opaque resetPoldw (draws : Nat) (held : Bool) : Bool

end Config

end Sys2Proof
end

