-- ==== Sys2Proof/WellFormed.lean ====
section
/-! DEFINITION. Which requests may be performed: on which port (R57, R60) and for which slot indexes
(R42). The decoder accepts exactly the encodings of these. -/

namespace Sys2Proof

/-- R60: PARSE is accepted only on port I, the other requests on both ports. -/
def Instr.portOk (p : Port) : Instr → Bool
  | .parse _ => p == .portI
  | .encode _ => true
  | .read _ => true
  | .cursor => true

/-- R42, R59: a READ index is compared unsigned with `N`; no other request names a slot. -/
def Instr.indexOk (n : Nat) : Instr → Bool
  | .parse _ => true
  | .encode _ => true
  | .read i => decide (i.toNat < n)
  | .cursor => true

/-- The requests a FRAMER of `n` slots performs when they arrive on port `p`. -/
def Instr.WellFormed (n : Nat) (p : Port) (i : Instr) : Bool :=
  i.portOk p && i.indexOk n

end Sys2Proof
end

