-- ==== Sys2Proof/Decode.lean ====
section
/-! DEFINITION. The request decoder of spec/30_encoding.md R62, total over all request words and both
ports and rejecting by name, and after it the encoder, written from the same tables (R52, R57, R58). -/

namespace Sys2Proof

/-- `OP = REQ[39:36]` (R52). -/
def opField (w : ReqWord) : BitVec 4 := w.extractLsb' 36 4

/-- `RSV = REQ[35:32]` (R52). -/
def rsvField (w : ReqWord) : BitVec 4 := w.extractLsb' 32 4

/-- `OPND = REQ[31:0]` (R52). -/
def opndField (w : ReqWord) : Word := w.extractLsb' 0 32

/-- `OPND[31:8]`, must be 0 in formats FB and FI (R58). -/
def opndHigh (w : ReqWord) : BitVec 24 := w.extractLsb' 8 24

/-- `OPND[7:0]`, the byte of format FB and the index of format FI (R58). -/
def opndByte (w : ReqWord) : Byte := w.extractLsb' 0 8

/-- The decoder of R62 for a store of `n` slots: the checks and their order are the rule's own, and
the order is the priority of R103. An accepted word gives the request of its opcode (R57) with the
operand of its format (R58), never extended, scaled or shifted (R59). -/
def decode (n : Nat) (p : Port) (w : ReqWord) : Except Reject Instr :=
  if opField w = 0x1 then
    if p = .portC then .error .badPort
    else if rsvField w ≠ 0 then .error .badReserved
    else if opndHigh w ≠ 0 then .error .badReserved
    else .ok (.parse (opndByte w))
  else if opField w = 0x2 then
    if rsvField w ≠ 0 then .error .badReserved
    else .ok (.encode (opndField w))
  else if opField w = 0x3 then
    if rsvField w ≠ 0 then .error .badReserved
    else if opndHigh w ≠ 0 then .error .badReserved
    else if n ≤ (opndByte w).toNat then .error .badIndex
    else .ok (.read (opndByte w))
  else if opField w = 0x4 then
    if rsvField w ≠ 0 then .error .badReserved
    else if opndField w ≠ 0 then .error .badReserved
    else .ok .cursor
  else .error .badOpcode

/-- A request word from its fields (R52). -/
def reqWord (op : BitVec 4) (opnd : Word) : ReqWord := op ++ (0 : BitVec 4) ++ opnd

/-- Format FB or FI: a byte operand below 24 zero bits (R58). -/
def byteOperand (b : Byte) : Word := (0 : BitVec 24) ++ b

/-- The word of a request (R57, R58, R65). -/
def encode : Instr → ReqWord
  | .parse b => reqWord 0x1 (byteOperand b)
  | .encode w => reqWord 0x2 w
  | .read i => reqWord 0x3 (byteOperand i)
  | .cursor => reqWord 0x4 0

/-- The request word of `nbits` bits whose bits are `w`, every bit above `nbits` zero. A request is
one word, so its bits are numbered as R52 numbers them. -/
def tableWord (nbits w : Nat) : ReqWord := BitVec.ofNat 40 (w % 2 ^ nbits)

/-- What the decoder reads from the table's word: on port I, which accepts every request (R57), and
with the largest store (N = 256), so that every index that can be spelled is in range (R59: an index
is rejected by value, not by spelling). -/
def decodeTableWord (nbits w : Nat) : Option Instr :=
  match decode 256 .portI (tableWord nbits w) with
  | .ok i => some i
  | .error _ => none

end Sys2Proof
end

