-- ==== Sys2Proof/Machine/Flags.lean ====
section
/-! DEFINITION. FRAMER has no status flags (R26). What it reports instead are the fields of a
response: the result code (R54) and the parse status (R55), and the response word made of them (R53). -/

namespace Sys2Proof.Machine

/-- The field `RC` (R54). -/
def rcCode : ResultCode → BitVec 4
  | .ok => 0
  | .rejected .badOpcode => 1
  | .rejected .badPort => 2
  | .rejected .badReserved => 3
  | .rejected .badIndex => 4

/-- The result code of a field `RC`; codes 5 to 15 are never produced and name none (R54). -/
def rcOfCode (c : BitVec 4) : Option ResultCode :=
  if c = 0 then some .ok
  else if c = 1 then some (.rejected .badOpcode)
  else if c = 2 then some (.rejected .badPort)
  else if c = 3 then some (.rejected .badReserved)
  else if c = 4 then some (.rejected .badIndex)
  else none

/-- The field `PS` of an accepted PARSE (R55). -/
def psCode : ParseStatus → BitVec 2
  | .inProgress => 0b00
  | .complete => 0b01
  | .error => 0b10

/-- The field `PS` of every response that is not an accepted PARSE's: "no status" (R55). -/
def noStatus : BitVec 2 := 0b00

/-- The parse status of the field `PS` of an accepted PARSE; `0b11` is never produced and names none
(R55). -/
def psOfCode (c : BitVec 2) : Option ParseStatus :=
  if c = 0b00 then some .inProgress
  else if c = 0b01 then some .complete
  else if c = 0b10 then some .error
  else none

/-- The response word `RC ++ Z ++ PS ++ DATA`, with `Z` always 0 (R53). -/
def responseWord (rc : ResultCode) (ps : BitVec 2) (data : FrameWord) : RespWord :=
  rcCode rc ++ (0 : BitVec 2) ++ ps ++ data

/-- `RESP[71:68]` (R53). -/
def respRc (w : RespWord) : BitVec 4 := w.extractLsb' 68 4

/-- `RESP[67:66]` (R53). -/
def respZ (w : RespWord) : BitVec 2 := w.extractLsb' 66 2

/-- `RESP[65:64]` (R53). -/
def respPs (w : RespWord) : BitVec 2 := w.extractLsb' 64 2

/-- `RESP[63:0]` (R53). -/
def respData (w : RespWord) : FrameWord := w.extractLsb' 0 64

/-- What a response tells the reader that issued its request. -/
inductive Reading where
  /-- An accepted PARSE, with its parse status (R55). -/
  | parsed (status : ParseStatus)
  /-- An accepted ENCODE, READ or CURSOR, with its data: it has no parse status (R55). -/
  | answered (data : FrameWord)
  /-- A rejected request (R54): it has no parse status either (R55). -/
  | rejected (cause : Reject)
  deriving DecidableEq, Repr

/-- Which result data an accepted request of opcode `op` can answer, PARSE apart: ENCODE any, READ
with `DATA[63:32]` 0, CURSOR with `DATA[63:8]` 0 (R56, R57). -/
def dataOk (op : BitVec 4) (data : FrameWord) : Bool :=
  if op = 0x2 then true
  else if op = 0x3 then data.extractLsb' 32 32 == 0
  else if op = 0x4 then data.extractLsb' 8 56 == 0
  else false

/-- The reading of an accepted request's `PS` and `DATA`: `PS` is a status only after a PARSE, where
`DATA` is 0, and is 0 after any other request (R55, R56). -/
def readAccepted (op : BitVec 4) (ps : BitVec 2) (data : FrameWord) : Option Reading :=
  if op = 0x1 then
    if data = 0 then (psOfCode ps).map .parsed else none
  else if ps = noStatus ∧ dataOk op data = true then some (.answered data)
  else none

/-- The reader of the response to a request of opcode `op`: what `PS = 0b00` means it tells by `RC` and
`OP` (R55). It refuses what FRAMER never produces: a set bit of `Z`, `RC` 5 to 15, `PS = 0b11`
(spec/93_implementation_defined.md item 15), a `PS` that is not 0 where there is no status (R55), and a
bit of `DATA` that no rule defines (R56). -/
def readResponse (op : BitVec 4) (w : RespWord) : Option Reading :=
  if respZ w ≠ 0 then none
  else
    match rcOfCode (respRc w) with
    | some .ok => readAccepted op (respPs w) (respData w)
    | some (.rejected cause) =>
      if respPs w = noStatus ∧ respData w = 0 then some (.rejected cause) else none
    | none => none

end Sys2Proof.Machine
end

