-- ==== Sys2Proof/Machine/Operands.lean ====
section
/-! DEFINITION. The data formats: bytes of a payload word (R35), bytes of a frame word (R36), the
frame layout (R33), and the suggested parser-state codes (R18). -/

namespace Sys2Proof.Machine

/-- `Pk = W[8k+7:8k]` (R35). -/
def payloadByte (w : Word) (k : Nat) : Byte := w.extractLsb' (8 * k) 8

/-- `W = P3 ++ P2 ++ P1 ++ P0` (R35). -/
def payloadWord (p : Vector Byte 4) : Word := p[3] ++ p[2] ++ p[1] ++ p[0]

/-- `F[8k+7:8k]`, the byte at frame offset `k` (R36). -/
def frameByte (f : FrameWord) (k : Nat) : Byte := f.extractLsb' (8 * k) 8

/-- The frame word of a payload word (R94): `H1` at offset 0 in the low byte, `T2` at offset 7. -/
def frameWord (c : Config) (w : Word) : FrameWord :=
  c.t2 ++ c.t1 ++ payloadByte w 3 ++ payloadByte w 2 ++ payloadByte w 1 ++ payloadByte w 0
    ++ c.h2 ++ c.h1

/-- The frame of a payload word in wire order, offset 0 first (R32, R33). -/
def frameBytes (c : Config) (w : Word) : List Byte :=
  [c.h1, c.h2, payloadByte w 0, payloadByte w 1, payloadByte w 2, payloadByte w 3, c.t1, c.t2]

/-- The code R18 suggests for a parser state. No request reads it. -/
def pstateCode : PState → BitVec 3
  | .waitHead1 => 0
  | .waitHead2 => 1
  | .receiveData => 2
  | .waitTail1 => 3
  | .waitTail2 => 4

/-- The parser state of a code; codes 5 to 7 name none (R18). -/
def pstateOfCode (c : BitVec 3) : Option PState :=
  if c = 0 then some .waitHead1
  else if c = 1 then some .waitHead2
  else if c = 2 then some .receiveData
  else if c = 3 then some .waitTail1
  else if c = 4 then some .waitTail2
  else none

end Sys2Proof.Machine
end

