-- ==== Sys2Proof/Machine/State.lean ====
section
/-! DEFINITION. The state of a FRAMER as plain data: every element of spec/10_state.md R17, the
build parameters of R7, what the ports hold (R43, R53), and the model's own counter of free values. -/

namespace Sys2Proof.Machine

/-- The four agents of R9. -/
inductive Agent where
  /-- The requester of a port: its oldest issued request is performed. -/
  | port (p : Port)
  /-- The publisher, which performs PUBLISH. -/
  | publisher
  /-- The reset source, which asserts reset. -/
  | resetSource
  deriving DecidableEq, Repr

/-- One Packet Store slot: its word `st.slot[i]` and its modelling flag `st.wr[i]` (R17, R24). -/
structure Slot where
  word : Word
  wr : Bool
  deriving DecidableEq, Repr

/-- A response on the port that issued the request (R53). -/
structure Response where
  port : Port
  word : RespWord
  deriving DecidableEq, Repr

/-- The state of one FRAMER. The first group is R17, the second R7, the third what stands at the
ports and the choice of the arbiter (log entries 1 and 2), the last the model's own (log entry 4). -/
structure State where
  /-- `st.ps`, the parser state (R18). -/
  ps : PState
  /-- `st.buf[0..3]`, the in-flight buffer (R21). -/
  buf : Vector Byte 4
  /-- `st.cnt`, bytes filled, 0..4 (R20, R21). -/
  cnt : Fin 5
  /-- `st.slot[0..N-1]` and `st.wr[0..N-1]`, in index order (R22, R24, R28). -/
  store : List Slot
  /-- `st.wcur`, the write cursor (R22). -/
  wcur : Nat
  /-- `st.pend`: a push is committed and not yet visible (R25). -/
  pend : Bool
  /-- `st.pidx`: the slot of the pending push (R25). -/
  pidx : Nat
  /-- `st.pold`: that slot's word before the pending push (R25). -/
  pold : Word
  /-- `st.poldw`: `st.pold` came from a push (R24). -/
  poldw : Bool
  /-- The build parameters: no step writes them (R15, R27). -/
  cfg : Config
  /-- Requests issued on port I and not yet performed, oldest first (R43). -/
  reqI : List ReqWord
  /-- Requests issued on port C and not yet performed, oldest first (R43). -/
  reqC : List ReqWord
  /-- The order in which the agents take the coming steps (R43: open, any order). -/
  sched : List Agent
  /-- The port of the request being performed (R52). -/
  port : Port
  /-- The response returned by the last step, if it returned one (R53). -/
  resp : Option Response
  /-- How many free values have been drawn: the model's own field. -/
  draws : Nat
  deriving DecidableEq, Repr

/-- Why the machine stops. No state that a run from reset reaches stops for either reason. -/
inductive Fault where
  /-- Raised by PARSE in `ReceiveData` with four bytes already filled: R72 is given for a fill count
  of 0 to 3 only, and R20 rules the state out. Safe: the model stops. -/
  | fillCountFull
  /-- Raised by PUSH or READ on an index that has no slot in the store held: R22 and R42 rule the
  state out. Safe: the model stops. -/
  | slotAbsent
  deriving DecidableEq, Repr

/-- Why an instruction is given no meaning. -/
inductive Refusal where
  /-- An arm of exec without a meaning; no arm raises it in this model. Safe: the model stops. -/
  | notModelled (mnemonic : String)
  deriving DecidableEq, Repr

/-- The state after reset (R31, R112), with the default parameters (R7), nothing issued on either
port and no step chosen. `ps`, `cnt`, `wcur`, `pend` and every `wr` have the spec's values. The
values of `buf`, every slot's word, `pidx`, `pold` and `poldw` are unspecified in R31 and zero or false
here: DESIGN CHOICE (log entry 6), unsafe. `port` and `draws` are the model's own fields. -/
def State.reset : State where
  ps := .waitHead1
  buf := Vector.replicate 4 0
  cnt := 0
  store := List.replicate Config.reference.n { word := 0, wr := false }
  wcur := 0
  pend := false
  pidx := 0
  pold := 0
  poldw := false
  cfg := Config.reference
  reqI := []
  reqC := []
  sched := []
  port := .portI
  resp := none
  draws := 0

end Sys2Proof.Machine
end

