-- ==== Sys2Proof/Machine/Ops.lean ====
section
/-! DEFINITION. The operations the requests share: responding and rejecting, the visible view, the
store accesses, PUSH, PUBLISH and the reset input.

FRAMER has no traps (R105). What it has in their place is the rejection of R98, here the one shared
operation `reject`; there is nothing to save and nothing to return from (R106), so no return stands
beside it. -/

namespace Sys2Proof.Machine

/-- What performing a request answers. -/
abbrev Result := Host.Outcome State Fault Refusal

/-- `respond(rc, ps, data)` of R13: the response word goes to the port that issued the request, in
this same step (R53). -/
def respond (rc : ResultCode) (ps : BitVec 2) (data : FrameWord) (s : State) : State :=
  { s with resp := some { port := s.port, word := responseWord rc ps data } }

/-- `raise <Cause>()` of R13: the response holds the cause's code, `PS` and `DATA` are 0, and no
element of the state changes (R98). -/
def reject (cause : Reject) (s : State) : State :=
  respond (.rejected cause) noStatus 0 s

/-! ### The visible view (R44) -/

/-- `VisCur(st)`. -/
def visCur (s : State) : Nat :=
  if s.pend then s.pidx else s.wcur

/-- `VisSlot(st,i)` and `VisWritten(st,i)` together: the slot a READ of index `i` sees. None where
the store has no slot `i`. -/
def visCell (s : State) (i : Nat) : Option Slot :=
  if s.pend && i == s.pidx then some { word := s.pold, wr := s.poldw } else s.store[i]?

/-- The written word a READ of index `i` sees; none where its content was never written. -/
def visWord (s : State) (i : Nat) : Option Word :=
  match visCell s i with
  | some c => if c.wr then some c.word else none
  | none => none

/-- The written word the committed state holds in slot `i`; none where the slot was never written
since reset (R43, R47). -/
def committedWord (s : State) (i : Nat) : Option Word :=
  match s.store[i]? with
  | some c => if c.wr then some c.word else none
  | none => none

/-- `MemRead(i, 4)` (R12, R44): a written content is returned as it is, an unwritten one is a draw,
fresh each time. -/
def memRead (i : Nat) (s : State) : Except Fault (Word × State) :=
  match visCell s i with
  | some c =>
    if c.wr then .ok (c.word, s)
    else .ok (Config.draw s.draws i c.word, { s with draws := s.draws + 1 })
  | none => .error .slotAbsent

/-! ### PUSH and PUBLISH (R85, R87) -/

/-- `MemWrite(i, 4, w)` (R12, R85): the slot holds `w` and is marked written. -/
def memWrite (i : Nat) (w : Word) (s : State) : Except Fault State :=
  if i < s.store.length then .ok { s with store := s.store.set i { word := w, wr := true } }
  else .error .slotAbsent

/-- The first block of PUSH (R85): under `LAG1` a push already pending becomes visible and the view
before this push is recorded; under `ATOMIC` the block is skipped. -/
def recordPending (s : State) : Except Fault State :=
  match s.cfg.vis with
  | .atomic => .ok s
  | .lag1 =>
    match s.store[s.wcur]? with
    | some c => .ok { s with pend := true, pidx := s.wcur, pold := c.word, poldw := c.wr }
    | none => .error .slotAbsent

/-- `st.wcur <- (st.wcur + 1) mod N` (R84). -/
def advanceCursor (s : State) : State :=
  { s with wcur := (s.wcur + 1) % s.cfg.n }

/-- PUSH: commit a payload word to the store (R85), whatever the slot holds (R86). -/
def push (w : Word) (s : State) : Except Fault State :=
  match recordPending s with
  | .error f => .error f
  | .ok s₁ =>
    match memWrite s₁.wcur w s₁ with
    | .error f => .error f
    | .ok s₂ => .ok (advanceCursor s₂)

/-- PUBLISH is enabled only while a push is pending and `STORE_VIS = LAG1` (R87). -/
def publishEnabled (s : State) : Bool :=
  s.pend && s.cfg.vis == .lag1

/-- PUBLISH: the visible view moves up to the committed state (R87). -/
def publish (s : State) : State :=
  { s with pend := false }

/-! ### The reset input (R112) -/

/-- The slots after reset: `N` of them, none written, their words unspecified (R31). -/
def resetStore (s : State) : List Slot :=
  (List.range s.cfg.n).map fun i =>
    { word := Config.resetSlot s.draws (s.store.map Slot.word) i, wr := false }

/-- Reset (R112): every state element takes its value of R31, the unspecified ones a free value each.
The parameters are fixed (R15), and what stands at the ports is no state of FRAMER: requests not yet
performed stay (log entry 7). No response is returned (R112). -/
def resetInput (s : State) : State :=
  { s with
    ps := .waitHead1
    buf := Config.resetBuf s.draws s.buf
    cnt := 0
    store := resetStore s
    wcur := 0
    pend := false
    pidx := Config.resetPidx s.draws s.pidx % s.cfg.n
    pold := Config.resetPold s.draws s.pold
    poldw := Config.resetPoldw s.draws s.poldw
    draws := s.draws + 1 }

end Sys2Proof.Machine
end

