-- ==== Sys2Proof/Machine/Encoder.lean ====
section
/-! DEFINITION. The Frame Encoder: the request ENCODE (R94). -/

namespace Sys2Proof.Machine

/-- ENCODE (R94): the frame word of the payload word. It reads the parameters only and writes no
state (R95). -/
def execEncode (w : Word) (s : State) : Result :=
  .next (respond .ok noStatus (frameWord s.cfg w) s)

end Sys2Proof.Machine
end

