-- ==== Sys2Proof/Machine/Parser.lean ====
section
/-! DEFINITION. The Frame Parser: its transition function, one definition per parser state (R70 to
R74), and the request PARSE (R68). -/

namespace Sys2Proof.Machine

/-- A transition's parse status and the state it leaves, or why it stops. -/
abbrev Transition := Except Fault (ParseStatus × State)

/-- R70. A byte other than `H1` is silent noise. -/
def stepWaitHead1 (b : Byte) (s : State) : Transition :=
  if b = s.cfg.h1 then .ok (.inProgress, { s with ps := .waitHead2 })
  else .ok (.inProgress, { s with ps := .waitHead1 })

/-- R71. A byte other than `H2` is a silent HeaderMismatch, and is not looked at again (R75). -/
def stepWaitHead2 (b : Byte) (s : State) : Transition :=
  if b = s.cfg.h2 then .ok (.inProgress, { s with ps := .receiveData })
  else .ok (.inProgress, { s with ps := .waitHead1 })

/-- R72. Any byte is stored; the fourth leads to `WaitTail1`. The rule is given for a fill count of
0 to 3; a state with four bytes filled stops by name. -/
def stepReceiveData (b : Byte) (s : State) : Transition :=
  if h : s.cnt.val < 4 then
    .ok (.inProgress,
      { s with
        buf := s.buf.set s.cnt.val b h
        cnt := ⟨s.cnt.val + 1, by omega⟩
        ps := if s.cnt.val + 1 = 4 then .waitTail1 else .receiveData })
  else .error .fillCountFull

/-- R73. A byte other than `T1` is a TrailerMismatch. -/
def stepWaitTail1 (b : Byte) (s : State) : Transition :=
  if b = s.cfg.t1 then .ok (.inProgress, { s with ps := .waitTail2 })
  else .ok (.error, { s with ps := .waitHead1, cnt := 0 })

/-- R74. `T2` pushes the four bytes of the buffer, `P0` in the low byte (R35); a byte other than
`T2` is a TrailerMismatch and pushes nothing. -/
def stepWaitTail2 (b : Byte) (s : State) : Transition :=
  if b = s.cfg.t2 then
    match push (payloadWord s.buf) s with
    | .ok t => .ok (.complete, { t with ps := .waitHead1, cnt := 0 })
    | .error f => .error f
  else .ok (.error, { s with ps := .waitHead1, cnt := 0 })

/-- The case of R68 on the parser state. -/
def parseByte (b : Byte) (s : State) : Transition :=
  match s.ps with
  | .waitHead1 => stepWaitHead1 b s
  | .waitHead2 => stepWaitHead2 b s
  | .receiveData => stepReceiveData b s
  | .waitTail1 => stepWaitTail1 b s
  | .waitTail2 => stepWaitTail2 b s

/-- PARSE (R68): accepted on port I only (R60), otherwise rejected with `BAD_PORT` and the byte is
not parsed (R100). -/
def execParse (b : Byte) (s : State) : Result :=
  match s.port with
  | .portC => .next (reject .badPort s)
  | .portI =>
    match parseByte b s with
    | .ok (status, t) => .next (respond .ok (psCode status) 0 t)
    | .error f => .fault f

end Sys2Proof.Machine
end

