-- ==== Sys2Proof/Machine/Store.lean ====
section
/-! DEFINITION. The requests of the Packet Store: READ (R91) and CURSOR (R93). -/

namespace Sys2Proof.Machine

/-- READ (R91): the visible content of slot `i`, zero-extended; an index of `N` or more is rejected
with `BAD_INDEX` (R42, R102). -/
def execRead (i : Byte) (s : State) : Result :=
  if s.cfg.n ≤ i.toNat then .next (reject .badIndex s)
  else
    match memRead i.toNat s with
    | .ok (v, t) => .next (respond .ok noStatus (v.setWidth 64) t)
    | .error f => .fault f

/-- CURSOR (R93): the visible write cursor, zero-extended. -/
def execCursor (s : State) : Result :=
  .next (respond .ok noStatus (BitVec.ofNat 64 (visCur s)) s)

end Sys2Proof.Machine
end

