-- ==== Sys2Proof/Machine/Dispatch.lean ====
section
/-! DEFINITION. One arm per request: R57's opcode map from the request to its operation. -/

namespace Sys2Proof.Machine

/-- What performing a request does (R57). -/
def exec (i : Instr) (s : State) : Host.Outcome State Fault Refusal :=
  match i with
  | .parse b => Sys2Proof.Machine.execParse b s
  | .encode w => Sys2Proof.Machine.execEncode w s
  | .read k => Sys2Proof.Machine.execRead k s
  | .cursor => Sys2Proof.Machine.execCursor s

end Sys2Proof.Machine
end

