-- ==== Sys2Proof/Machine/Fetch.lean ====
section
/-! DEFINITION. Whose step comes next (R9, R43): the arbiter's choice is plain data in the state, and
where no choice is left the default order keeps publication fair (R45) and leaves no request waiting
(R124). -/

namespace Sys2Proof.Machine

/-- What the next step is. -/
inductive Turn where
  /-- Perform the request word of the state's `port`. -/
  | request (w : ReqWord)
  /-- Perform PUBLISH. -/
  | publish
  /-- Take reset. -/
  | reset
  /-- Nothing to do: the agent chosen has nothing it can do, or no agent has. -/
  | idle
  deriving DecidableEq, Repr

/-- The requests issued on a port and not yet performed, oldest first (R43). -/
def queue (p : Port) (s : State) : List ReqWord :=
  match p with
  | .portI => s.reqI
  | .portC => s.reqC

/-- The state with the requests waiting on a port replaced. -/
def setQueue (p : Port) (q : List ReqWord) (s : State) : State :=
  match p with
  | .portI => { s with reqI := q }
  | .portC => { s with reqC := q }

/-- The oldest request of a port is taken from its queue (R43: each port's requests are performed in
the order it issued them). -/
def takeRequest (p : Port) (s : State) : Turn × State :=
  match queue p s with
  | w :: ws => (.request w, { setQueue p ws s with port := p })
  | [] => (.idle, s)

/-- The agent's turn. The publisher can act only while PUBLISH is enabled (R87). -/
def takeTurn (a : Agent) (s : State) : Turn × State :=
  match a with
  | .port p => takeRequest p s
  | .publisher => if publishEnabled s then (.publish, s) else (.idle, s)
  | .resetSource => (.reset, s)

/-- DESIGN CHOICE (log entry 2). Whose turn it is when the schedule is used up: the publisher while
PUBLISH is enabled, then port I, then port C. -/
def defaultAgent (s : State) : Agent :=
  if publishEnabled s then .publisher
  else if s.reqI = [] then .port .portC
  else .port .portI

/-- The next step, with the last step's response gone from the ports. -/
def fetch (s : State) : Turn × State :=
  match s.sched with
  | a :: rest => takeTurn a { s with sched := rest, resp := none }
  | [] => takeTurn (defaultAgent s) { s with resp := none }

/-- A request word issued on a port, with the turn that performs it chosen as the very next one. -/
def issueFirst (p : Port) (w : ReqWord) (s : State) : State :=
  { setQueue p (w :: queue p s) s with sched := .port p :: s.sched }

end Sys2Proof.Machine
end

