-- ==== Sys2Proof/Machine/Step.lean ====
section
/-! DEFINITION. One atomic step of FRAMER (R40, R43): a request of either port, a PUBLISH, a reset, or
nothing. -/

namespace Sys2Proof.Machine

/-- One step. A request word is decoded (R62) and performed, or rejected with the cause the decoder
names (R98); the other steps are R87 and R112. -/
def step (s : State) : Host.Outcome State Fault Refusal :=
  match fetch s with
  | (.request w, t) =>
    match decode t.cfg.n t.port w with
    | .ok i => exec i t
    | .error cause => .next (reject cause t)
  | (.publish, t) => .next (publish t)
  | (.reset, t) => .next (resetInput t)
  | (.idle, t) => .next t

/-- The state with the table's word issued on port I, ahead of what waits there, and port I's turn
next (log entry 3). -/
def State.withFetchWord (s : State) (nbits w : Nat) : State :=
  issueFirst .portI (tableWord nbits w) s

end Sys2Proof.Machine
end

