-- ==== Sys2Proof/Machine/Program.lean ====
section
/-! DEFINITION. The written form of a sequence of requests and schedule events (R65), with its one
pseudo-instruction `feed` (R66), and how such a sequence is placed in the state. -/

namespace Sys2Proof.Machine

/-- One line, a constructor for each form of R65, and R66's `feed`. -/
inductive Line where
  /-- `I: parse <byte>`: port I is the only one this form has. -/
  | parse (b : Byte)
  /-- `<p>: encode <word>`. -/
  | encode (p : Port) (w : Word)
  /-- `<p>: read <index>`. -/
  | read (p : Port) (i : Byte)
  /-- `<p>: cursor`. -/
  | cursor (p : Port)
  /-- `<p>: .word <40-bit hex>`. -/
  | word (p : Port) (w : ReqWord)
  /-- `I: feed <word>`. -/
  | feed (w : Word)
  /-- `!publish`. -/
  | publish
  /-- `!reset`. -/
  | reset
  deriving DecidableEq, Repr

/-- One step to come: a request word on a port, or a schedule event. -/
inductive Event where
  | request (p : Port) (w : ReqWord)
  | publish
  | reset
  deriving DecidableEq, Repr

/-- The eight PARSE requests of `feed` in wire order (R66). -/
def feedWords (c : Config) (w : Word) : List ReqWord :=
  (frameBytes c w).map fun b => Sys2Proof.encode (.parse b)

/-- A line's steps (R65). -/
def lineEvents (c : Config) : Line → List Event
  | .parse b => [.request .portI (Sys2Proof.encode (.parse b))]
  | .encode p w => [.request p (Sys2Proof.encode (.encode w))]
  | .read p i => [.request p (Sys2Proof.encode (.read i))]
  | .cursor p => [.request p (Sys2Proof.encode .cursor)]
  | .word p w => [.request p w]
  | .feed w => (feedWords c w).map (Event.request .portI)
  | .publish => [.publish]
  | .reset => [.reset]

/-- The scheduler's PUBLISH steps put between a program's steps (R45: at any point): the `k`-th number
says how many stand before the `k`-th step, the one after the last step's how many stand at the end. -/
def withPublishes : List Nat → List Event → List Event
  | [], es => es
  | n :: _, [] => List.replicate n .publish
  | n :: ns, e :: es => List.replicate n .publish ++ e :: withPublishes ns es

/-- A program's steps (R65). A program with no `!publish` line leaves publication to the scheduler,
whose choice is `pub`; one with such a line publishes where it says so (log entry 16). -/
def programEvents (pub : List Nat) (c : Config) (ls : List Line) : List Event :=
  if Line.publish ∈ ls then ls.flatMap (lineEvents c)
  else withPublishes pub (ls.flatMap (lineEvents c))

/-- The state with one more step chosen after those already chosen, its request issued last on its
port. -/
def addEvent (s : State) (e : Event) : State :=
  match e with
  | .request p w => { setQueue p (queue p s ++ [w]) s with sched := s.sched ++ [.port p] }
  | .publish => { s with sched := s.sched ++ [.publisher] }
  | .reset => { s with sched := s.sched ++ [.resetSource] }

/-- The state with a whole program placed (R65), `pub` being the scheduler's choice where the program
leaves it one. -/
def load (pub : List Nat) (ls : List Line) (s : State) : State :=
  (programEvents pub s.cfg ls).foldl addEvent s

end Sys2Proof.Machine
end

