-- ==== Sys2Proof/Safety.lean ====
section
/-! DEFINITION. What the statements about FRAMER are made of: the invariant of its states, what a
rejection is to the requester, the pushes a state has taken, and when a run is quiescent. -/

namespace Sys2Proof.Machine

/-! ### The invariant -/

/-- R20: which fill counts go with a parser state. -/
def fillOk : PState → Fin 5 → Bool
  | .waitHead1, c => c == 0
  | .waitHead2, c => c == 0
  | .receiveData, c => decide (c.val < 4)
  | .waitTail1, c => c == 4
  | .waitTail2, c => c == 4

/-- The store has its `N` slots (R22, R28): the form every store operation keeps. -/
def Memory.wf (n : Nat) (store : List Slot) : Bool := store.length == n

/-- What holds in every state FRAMER reaches. -/
structure StateInv (s : State) : Prop where
  /-- R20. -/
  fill : fillOk s.ps s.cnt = true
  /-- R22, R28. -/
  slots : Memory.wf s.cfg.n s.store = true
  /-- R22: the cursor stays in 0..N-1. -/
  cursor : s.wcur < s.cfg.n
  /-- R17: `st.pidx` stays in 0..N-1. -/
  pendingSlot : s.pidx < s.cfg.n
  /-- R25: the pending push is the last one, so its slot is the one before the cursor. -/
  pendingIsLast : s.pend = true → (s.pidx + 1) % s.cfg.n = s.wcur
  /-- R25: the slot of the pending push has been written. -/
  pendingWritten : s.pend = true → committedWord s s.pidx ≠ none
  /-- R17, R46: under `ATOMIC` no push is ever pending. -/
  atomicNeverPends : s.cfg.vis = .atomic → s.pend = false

/-! ### What a step reports -/

/-- The last step returned this response on port `p`. -/
def Responded (s : State) (p : Port) (rc : ResultCode) (ps : BitVec 2) (data : FrameWord) : Prop :=
  s.resp = some { port := p, word := responseWord rc ps data }

/-- Performed in `s`, the request is accepted and answers the data `data` on its port, with no parse
status (R53 to R55). -/
def Answers (i : Instr) (s : State) (data : FrameWord) : Prop :=
  ∃ t, exec i s = .next t ∧ Responded t s.port .ok noStatus data

/-- The last step was a request and was accepted (R54). -/
def Accepted (s : State) : Prop :=
  ∃ r, s.resp = some r ∧ respRc r.word = rcCode .ok

/-- The last step was an accepted PARSE that answered `Complete`: PS is `0b01` (R55). -/
def Completed (s : State) : Prop :=
  ∃ r, s.resp = some r ∧ respPs r.word = psCode .complete

/-- The last step was a request and was rejected: a fault of the requester's step (R98; log entry 8).
A run is safe for its requesters when no step of it ends so. -/
def RequesterFault (s : State) : Prop :=
  ∃ r, s.resp = some r ∧ respRc r.word ≠ rcCode .ok

/-! ### Bytes of the frame candidate (R19) -/

/-- The number of bytes of the current frame candidate accepted so far (R19). -/
def validated (s : State) : Nat :=
  match s.ps with
  | .waitHead1 => 0
  | .waitHead2 => 1
  | .receiveData => 2 + s.cnt.val
  | .waitTail1 => 6
  | .waitTail2 => 7

/-- The byte fits the frame candidate at the place the parser has reached (R33, R70 to R74). -/
def fits (b : Byte) (s : State) : Bool :=
  match s.ps with
  | .waitHead1 => b == s.cfg.h1
  | .waitHead2 => b == s.cfg.h2
  | .receiveData => true
  | .waitTail1 => b == s.cfg.t1
  | .waitTail2 => b == s.cfg.t2

/-! ### The pushes since reset (R47, R84, R92) -/

/-- The word the pushes `l` (oldest first, counted from 0) leave in slot `i` of a store of `n` slots:
the last of them whose number is `i` modulo `n` (R84: push `k` writes slot `k mod N`). -/
def lastPushTo (n i : Nat) (l : List Word) : Option Word :=
  ((l.zipIdx.filter fun p => p.2 % n == i).getLast?).map Prod.fst

/-- The view of a store of `n` slots that the pushes `l` leave, as cursor and written words. -/
def ViewAfter (n : Nat) (l : List Word) (cursor : Nat) (word : Nat → Option Word) : Prop :=
  cursor = l.length % n ∧ ∀ i, i < n → word i = lastPushTo n i l

/-- The pushes a reader sees: all, or all but the pending one (R44). -/
def visiblePushes (s : State) (l : List Word) : List Word :=
  if s.pend then l.dropLast else l

/-- The state is one that exactly the pushes `l` since reset lead to: its committed state is the view
after all of them, and what READ and CURSOR see is the view after all but the pending one (R47). -/
structure AfterPushes (s : State) (l : List Word) : Prop where
  committed : ViewAfter s.cfg.n l s.wcur (committedWord s)
  visible : ViewAfter s.cfg.n (visiblePushes s l) (visCur s) (visWord s)
  pendingExists : s.pend = true → l ≠ []

/-- The push committed and not yet visible, if there is one (R25). -/
def pendingPush (s : State) : List Word :=
  if s.pend then (committedWord s s.pidx).toList else []

/-! ### Runs -/

/-- `t` is reached from `s` by steps none of which is a reset, and `ws` are the payloads of the frames
they completed, oldest first (R47: the order of the `Complete` statuses). -/
inductive PushRun (s : State) : List Word → State → Prop where
  | here : PushRun s [] s
  | quiet {ws : List Word} {t u : State} (run : PushRun s ws t) (noReset : ∀ v, fetch t ≠ (.reset, v))
      (next : step t = .next u) (noFrame : ¬ Completed u) : PushRun s ws u
  | complete {ws : List Word} {t u : State} (run : PushRun s ws t)
      (noReset : ∀ v, fetch t ≠ (.reset, v)) (next : step t = .next u) (frame : Completed u) :
      PushRun s (ws ++ [payloadWord t.buf]) u

/-- R123: every issued request has its response and no push is pending. -/
def Quiescent (s : State) : Prop :=
  s.reqI = [] ∧ s.reqC = [] ∧ s.pend = false

/-- Steps that suffice to reach quiescence from `s`: the chosen ones, and for each waiting request
its own and the PUBLISH it may cause, and one PUBLISH. -/
def settleBound (s : State) : Nat :=
  s.sched.length + 2 * (s.reqI.length + s.reqC.length) + 1

end Sys2Proof.Machine
end

