-- ==== Sys2Proof/Certificates/Slice0/Obligations.lean ====
section
/-! DEFINITION. The statements about FRAMER for the provers. Rules R<n> are those of spec/. Where a
docstring calls a statement the spec's own inference or the model's choice, it is not a rule the source
gives; it names the rule's derivation mark or the log entry. -/

open Sys2Proof Sys2Proof.Machine

/-! ### Encodings -/

/-- R57, R58, R62: every request that may be performed is what the decoder reads from its word. -/
def Obligations.DecodeOfEncodeIsTheRequest : Prop :=
  ∀ (n : Nat) (p : Port) (i : Instr),
    i.WellFormed n p = true → decode n p (encode i) = .ok i

/-- R52, R58, R61, R62: an accepted word is the one word of its request, and the request may be
performed: no bit of a word is ignored. -/
def Obligations.AcceptedWordIsTheEncoding : Prop :=
  ∀ (n : Nat) (p : Port) (w : ReqWord) (i : Instr),
    decode n p w = .ok i → encode i = w ∧ i.WellFormed n p = true

/-- The request words of the spec's table of encoding examples (R67, the spec's own inference from
R52 to R55) and of its vectors D-1, D-5, D-9, D-11 and S-9, written out digit by digit. -/
def Obligations.RequestWordExamples : Prop :=
  decode 10 .portI 0x10000000AA = .ok (.parse 0xAA) ∧
  decode 10 .portI 0x1000000000 = .ok (.parse 0x00) ∧
  decode 10 .portC 0x203F800000 = .ok (.encode 0x3F800000) ∧
  decode 10 .portC 0x3000000003 = .ok (.read 3) ∧
  decode 10 .portC 0x4000000000 = .ok .cursor ∧
  decode 10 .portC 0x5000000000 = .error .badOpcode ∧
  decode 10 .portI 0x1000000100 = .error .badReserved ∧
  decode 10 .portC 0x1000000100 = .error .badPort ∧
  decode 10 .portC 0x1100000000 = .error .badPort ∧
  decode 10 .portC 0x3100000010 = .error .badReserved ∧
  decode 10 .portC 0x5100000000 = .error .badOpcode ∧
  decode 10 .portC 0x300000000A = .error .badIndex

/-- The response words of R67 (the spec's own inference from R52 to R55) and of vectors E-3 and S-9,
written out digit by digit. -/
def Obligations.ResponseWordExamples : Prop :=
  responseWord .ok (psCode .inProgress) 0 = 0x000000000000000000 ∧
  responseWord .ok (psCode .complete) 0 = 0x010000000000000000 ∧
  responseWord .ok (psCode .error) 0 = 0x020000000000000000 ∧
  responseWord (.rejected .badOpcode) noStatus 0 = 0x100000000000000000 ∧
  responseWord (.rejected .badIndex) noStatus 0 = 0x400000000000000000 ∧
  responseWord .ok noStatus (frameWord Config.reference 0x3F800000) = 0x00FFFA3F800000AFAA

/-- R53 to R56: a reader of responses, told the opcode of the request, reads exactly the words FRAMER
makes: a status only after a PARSE; data after the other requests, with "no status" in `PS`; the cause
of a rejection, with `PS` and `DATA` 0. No word with a bit of `Z` set, an `RC` of 5 to 15, a `PS` of
`0b11` or a status where there is none is read. The reader is the model's own (log entry 17). -/
def Obligations.ResponseFieldsReadBack : Prop :=
  ∀ (op : BitVec 4) (w : RespWord) (x : Reading),
    readResponse op w = some x ↔
      match x with
      | .parsed st => op = 1 ∧ w = responseWord .ok (psCode st) 0
      | .answered d =>
        (op = 2 ∨ (op = 3 ∧ d.extractLsb' 32 32 = 0) ∨ (op = 4 ∧ d.extractLsb' 8 56 = 0)) ∧
          w = responseWord .ok 0b00 d
      | .rejected c => w = responseWord (.rejected c) 0b00 0

/-- R35: byte `k` of the payload word is `Pk`, and a word is the packing of its bytes. -/
def Obligations.PayloadWordPacksItsBytes : Prop :=
  (∀ (p : Vector Byte 4) (k : Nat) (h : k < 4),
    (payloadWord p).extractLsb' (8 * k) 8 = p[k]) ∧
  ∀ w : Word,
    w = payloadByte w 3 ++ payloadByte w 2 ++ payloadByte w 1 ++ payloadByte w 0

/-- R36, with the layout of R33: ENCODE returns a word whose byte `k` is the byte at frame offset
`k`. -/
def Obligations.EncodeReturnsTheFrameByOffset : Prop :=
  ∀ (s : State) (w : Word) (k : Nat), k < 8 →
    ∃ (t : State) (r : Response), exec (.encode w) s = .next t ∧ t.resp = some r ∧
      some ((respData r.word).extractLsb' (8 * k) 8) =
        [s.cfg.h1, s.cfg.h2, w.extractLsb' 0 8, w.extractLsb' 8 8, w.extractLsb' 16 8,
          w.extractLsb' 24 8, s.cfg.t1, s.cfg.t2][k]?

/-- R66 (the spec's own inference from R35, R65, R94), for every word and every marker bytes: the steps
of a `feed` are the PARSE requests of the frame's bytes on port I, in wire order. The last clause is the
one line spec/95_test_vectors.md expands in Program C. -/
def Obligations.FeedIsEightParseRequests : Prop :=
  (∀ (c : Config) (w : Word), lineEvents c (.feed w) =
    [.request .portI (0x10000000#32 ++ c.h1), .request .portI (0x10000000#32 ++ c.h2),
      .request .portI (0x10000000#32 ++ w.extractLsb' 0 8),
      .request .portI (0x10000000#32 ++ w.extractLsb' 8 8),
      .request .portI (0x10000000#32 ++ w.extractLsb' 16 8),
      .request .portI (0x10000000#32 ++ w.extractLsb' 24 8),
      .request .portI (0x10000000#32 ++ c.t1), .request .portI (0x10000000#32 ++ c.t2)]) ∧
  feedWords Config.reference 0x11111111 =
    [0x10000000AA, 0x10000000AF, 0x1000000011, 0x1000000011, 0x1000000011, 0x1000000011,
      0x10000000FA, 0x10000000FF]

/-! ### One step -/

/-- R43, R52: the turn of a port performs the oldest request issued on it, if its word is accepted,
with what the step does beside it: the turn and the word are used up, the request's port is known to
the operation, the last response is gone. -/
def Obligations.StepPerformsTheDecodedRequest : Prop :=
  ∀ (s : State) (rest : List Agent) (w : ReqWord) (ws : List ReqWord) (i : Instr),
    (s.sched = .port .portI :: rest → s.reqI = w :: ws → decode s.cfg.n .portI w = .ok i →
      step s = exec i { s with sched := rest, reqI := ws, port := .portI, resp := none }) ∧
    (s.sched = .port .portC :: rest → s.reqC = w :: ws → decode s.cfg.n .portC w = .ok i →
      step s = exec i { s with sched := rest, reqC := ws, port := .portC, resp := none })

/-- R61, R62, R99 to R103: which verdict a request word gets, in the order of the checks. That a
rejected request is answered by a next state, in which its response holds the cause's code, `PS` and
`DATA` are 0 and nothing else has changed, is the model's choice (log entry 8): R98 also suggests that a
model record a fault. -/
def Obligations.RequestVerdictsInOrder : Prop :=
  ∀ (s t : State) (w : ReqWord), fetch s = (.request w, t) →
    step s =
      if opField w ≠ 1 ∧ opField w ≠ 2 ∧ opField w ≠ 3 ∧ opField w ≠ 4 then
        .next { t with resp := some ⟨t.port, responseWord (.rejected .badOpcode) 0 0⟩ }
      else if opField w = 1 ∧ t.port = .portC then
        .next { t with resp := some ⟨t.port, responseWord (.rejected .badPort) 0 0⟩ }
      else if w.extractLsb' 32 4 ≠ 0
          ∨ ((opField w = 1 ∨ opField w = 3) ∧ w.extractLsb' 8 24 ≠ 0)
          ∨ (opField w = 4 ∧ w.extractLsb' 0 32 ≠ 0) then
        .next { t with resp := some ⟨t.port, responseWord (.rejected .badReserved) 0 0⟩ }
      else if opField w = 3 ∧ t.cfg.n ≤ (w.extractLsb' 0 8).toNat then
        .next { t with resp := some ⟨t.port, responseWord (.rejected .badIndex) 0 0⟩ }
      else if opField w = 1 then exec (.parse (w.extractLsb' 0 8)) t
      else if opField w = 2 then exec (.encode (w.extractLsb' 0 32)) t
      else if opField w = 3 then exec (.read (w.extractLsb' 0 8)) t
      else exec .cursor t

/-- The model's choice (log entries 1, 2 and 13; R43 leaves the order open): what a step does when no
turn is chosen, and that a chosen port with no request waiting does nothing. -/
def Obligations.StepWithoutAChosenRequest : Prop :=
  ∀ (s : State),
    (s.sched = [] → s.pend = true → s.cfg.vis = .lag1 →
      step s = .next { s with pend := false, resp := none }) ∧
    (s.sched = [] → (s.pend = false ∨ s.cfg.vis = .atomic) →
      (∀ w ws i, s.reqI = w :: ws → decode s.cfg.n .portI w = .ok i →
        step s = exec i { s with reqI := ws, port := .portI, resp := none }) ∧
      (∀ w ws i, s.reqI = [] → s.reqC = w :: ws → decode s.cfg.n .portC w = .ok i →
        step s = exec i { s with reqC := ws, port := .portC, resp := none }) ∧
      (s.reqI = [] → s.reqC = [] → step s = .next { s with resp := none })) ∧
    (∀ rest, s.sched = .port .portI :: rest → s.reqI = [] →
      step s = .next { s with sched := rest, resp := none }) ∧
    (∀ rest, s.sched = .port .portC :: rest → s.reqC = [] →
      step s = .next { s with sched := rest, resp := none })

/-- R87: the publisher's step makes the pending push visible and changes nothing else; it is enabled
only while a push is pending and `STORE_VIS = LAG1`. The second clause, that a turn of the publisher
while PUBLISH is not enabled is an idle step, is the model's choice (log entry 13). -/
def Obligations.PublishClearsThePendingPush : Prop :=
  ∀ (s : State) (rest : List Agent), s.sched = .publisher :: rest →
    (s.pend = true → s.cfg.vis = .lag1 →
      step s = .next { s with sched := rest, resp := none, pend := false }) ∧
    ((s.pend = false ∨ s.cfg.vis = .atomic) →
      step s = .next { s with sched := rest, resp := none })

/-- R112: reset sets the elements the rule names, keeps the ranges of R17 and returns no response. -/
def Obligations.ResetInputSetsTheState : Prop :=
  ∀ (s : State) (rest : List Agent), s.sched = .resetSource :: rest →
    ∃ t, step s = .next t ∧
      t.ps = .waitHead1 ∧ t.cnt = 0 ∧ t.wcur = 0 ∧ t.pend = false ∧
      t.store.length = s.cfg.n ∧ (∀ c ∈ t.store, c.wr = false) ∧ t.pidx < s.cfg.n ∧
      t.resp = none

/-- The model's choice (log entry 7), with R15 for the parameters: reset leaves the parameters, the
requests waiting at the ports and the turns chosen. -/
def Obligations.ResetInputLeavesWhatWaits : Prop :=
  ∀ (s : State) (rest : List Agent), s.sched = .resetSource :: rest →
    ∃ t, step s = .next t ∧ t.cfg = s.cfg ∧ t.reqI = s.reqI ∧ t.reqC = s.reqC ∧ t.sched = rest

/-- R115 (the spec's own inference): reset alone establishes every invariant, from any state. -/
def Obligations.ResetInputEstablishesTheInvariant : Prop :=
  ∀ (s t : State) (rest : List Agent),
    s.sched = .resetSource :: rest → step s = .next t → StateInv t ∧ AfterPushes t []

/-- R7, R112: the state after reset, with the default parameters. The values R31 leaves unspecified
are the model's choice (log entry 6) and not stated. -/
def Obligations.ResetStateIsTheSpecs : Prop :=
  State.reset.ps = .waitHead1 ∧ State.reset.cnt = 0 ∧ State.reset.wcur = 0 ∧
  State.reset.pend = false ∧ State.reset.store.length = 10 ∧
  (∀ c ∈ State.reset.store, c.wr = false) ∧
  State.reset.cfg.n = 10 ∧ State.reset.cfg.h1 = 0xAA ∧ State.reset.cfg.h2 = 0xAF ∧
  State.reset.cfg.t1 = 0xFA ∧ State.reset.cfg.t2 = 0xFF ∧ State.reset.cfg.vis = .lag1

/-- The invariant holds after reset (R20, R22, R25). -/
def Obligations.ResetStateHasTheInvariant : Prop :=
  StateInv State.reset ∧ AfterPushes State.reset []

/-! ### PARSE -/

/-- R70. -/
def Obligations.ParseInWaitHead1 : Prop :=
  ∀ (s : State) (b : Byte), s.port = .portI → s.ps = .waitHead1 →
    exec (.parse b) s =
      .next { s with
        ps := if b = s.cfg.h1 then .waitHead2 else .waitHead1
        resp := some ⟨.portI, responseWord .ok (psCode .inProgress) 0⟩ }

/-- R71, with R75: a byte other than `H2` leads to `WaitHead1` even if it equals `H1`. -/
def Obligations.ParseInWaitHead2 : Prop :=
  ∀ (s : State) (b : Byte), s.port = .portI → s.ps = .waitHead2 →
    exec (.parse b) s =
      .next { s with
        ps := if b = s.cfg.h2 then .receiveData else .waitHead1
        resp := some ⟨.portI, responseWord .ok (psCode .inProgress) 0⟩ }

/-- R72, for every fill count the rule is given for. -/
def Obligations.ParseInReceiveData : Prop :=
  ∀ (s : State) (b : Byte) (h : s.cnt.val < 4), s.port = .portI → s.ps = .receiveData →
    exec (.parse b) s =
      .next { s with
        buf := s.buf.set s.cnt.val b
        cnt := ⟨s.cnt.val + 1, Nat.succ_lt_succ h⟩
        ps := if s.cnt.val + 1 = 4 then .waitTail1 else .receiveData
        resp := some ⟨.portI, responseWord .ok (psCode .inProgress) 0⟩ }

/-- R73. -/
def Obligations.ParseInWaitTail1 : Prop :=
  ∀ (s : State) (b : Byte), s.port = .portI → s.ps = .waitTail1 →
    exec (.parse b) s =
      if b = s.cfg.t1 then
        .next { s with
          ps := .waitTail2
          resp := some ⟨.portI, responseWord .ok (psCode .inProgress) 0⟩ }
      else
        .next { s with
          ps := .waitHead1
          cnt := 0
          resp := some ⟨.portI, responseWord .ok (psCode .error) 0⟩ }

/-- R74, R85: `T2` commits the payload to the slot at the cursor whatever the slot holds, advances the
cursor and completes, under `LAG1` with the view before the push kept as the pending record; any other
byte is an error and pushes nothing. -/
def Obligations.ParseInWaitTail2 : Prop :=
  ∀ (s : State) (b : Byte) (old : Slot), s.port = .portI → s.ps = .waitTail2 →
    s.store[s.wcur]? = some old →
    (b = s.cfg.t2 → s.cfg.vis = .lag1 → exec (.parse b) s =
      .next { s with
        ps := .waitHead1
        cnt := 0
        pend := true
        pidx := s.wcur
        pold := old.word
        poldw := old.wr
        store := s.store.set s.wcur ⟨s.buf[3] ++ s.buf[2] ++ s.buf[1] ++ s.buf[0], true⟩
        wcur := (s.wcur + 1) % s.cfg.n
        resp := some ⟨.portI, responseWord .ok (psCode .complete) 0⟩ }) ∧
    (b = s.cfg.t2 → s.cfg.vis = .atomic → exec (.parse b) s =
      .next { s with
        ps := .waitHead1
        cnt := 0
        store := s.store.set s.wcur ⟨s.buf[3] ++ s.buf[2] ++ s.buf[1] ++ s.buf[0], true⟩
        wcur := (s.wcur + 1) % s.cfg.n
        resp := some ⟨.portI, responseWord .ok (psCode .complete) 0⟩ }) ∧
    (b ≠ s.cfg.t2 → exec (.parse b) s =
      .next { s with
        ps := .waitHead1
        cnt := 0
        resp := some ⟨.portI, responseWord .ok (psCode .error) 0⟩ })

/-- R100: a PARSE on port C is not parsed, and only the response tells of it. That the meaning of PARSE
itself checks the port is the model's reading (log entry 14, DEDUCED), and that the rejection is a next
state is the model's choice (log entry 8). -/
def Obligations.ParseOnPortCIsRejected : Prop :=
  ∀ (s : State) (b : Byte), s.port = .portC →
    exec (.parse b) s =
      .next { s with resp := some ⟨.portC, responseWord (.rejected .badPort) 0 0⟩ }

/-- The model's choice (log entry 9): the two stops, in states that no run reaches (R20, R22), where
the rules give PARSE and READ no effect. -/
def Obligations.StopsOutsideTheInvariant : Prop :=
  (∀ (s : State) (b : Byte), s.port = .portI → s.ps = .receiveData → s.cnt = 4 →
    exec (.parse b) s = .fault .fillCountFull) ∧
  (∀ (s : State) (b : Byte), s.port = .portI → s.ps = .waitTail2 → b = s.cfg.t2 →
    s.store[s.wcur]? = none → exec (.parse b) s = .fault .slotAbsent) ∧
  (∀ (s : State) (i : Byte), i.toNat < s.cfg.n → s.pend = false → s.store[i.toNat]? = none →
    exec (.read i) s = .fault .slotAbsent)

/-- R69 with R73 and R74: PARSE is always performed on port I, and which status it returns: `Complete`
exactly for the `T2` that ends a frame, with the payload then in the committed state; `Error` exactly
for a failed trailer byte; `InProgress` otherwise. "The 8th byte of a structurally valid frame" is said
as a `T2` after seven validated bytes, the count being read off the parser state as in R19, the spec's
own inference; that it counts bytes that fit the frame is ParserStateCountsValidatedBytes. -/
def Obligations.ParseStatusContract : Prop :=
  ∀ (s : State) (b : Byte), StateInv s → s.port = .portI →
    ∃ (t : State) (st : ParseStatus), exec (.parse b) s = .next t ∧
      Responded t .portI .ok (psCode st) 0 ∧
      (st = .complete ↔ validated s = 7 ∧ b = s.cfg.t2) ∧
      (st = .error ↔ (s.ps = .waitTail1 ∧ b ≠ s.cfg.t1) ∨ (s.ps = .waitTail2 ∧ b ≠ s.cfg.t2)) ∧
      (st = .complete → committedWord t s.wcur = some (payloadWord s.buf))

/-- R19, the reading the spec marks as its own inference: the parser state is a function of the
number of bytes validated, and a PARSE either accepts the next byte or returns to `WaitHead1`. -/
def Obligations.ParserStateCountsValidatedBytes : Prop :=
  ∀ (s t : State) (b : Byte), StateInv s → s.port = .portI → exec (.parse b) s = .next t →
    validated t = (if fits b s then (validated s + 1) % 8 else 0) ∧
    (validated t = 0 ↔ t.ps = .waitHead1) ∧ (validated t = 1 ↔ t.ps = .waitHead2) ∧
    (2 ≤ validated t ∧ validated t ≤ 5 ↔ t.ps = .receiveData) ∧
    (validated t = 6 ↔ t.ps = .waitTail1) ∧ (validated t = 7 ↔ t.ps = .waitTail2)

/-- R81 (the spec's own inference from R70, R73, R74): after `Error` and `Complete` the parser is idle
with an empty buffer, and an `H1` that follows is accepted. -/
def Obligations.ParserIdleAfterErrorOrComplete : Prop :=
  ∀ (s t : State) (b : Byte), exec (.parse b) s = .next t →
    (Responded t .portI .ok (psCode .complete) 0 ∨ Responded t .portI .ok (psCode .error) 0) →
    t.ps = .waitHead1 ∧ t.cnt = 0 ∧
      ∃ u, exec (.parse t.cfg.h1) t = .next u ∧ u.ps = .waitHead2

/-- R38, R68: what an accepted or rejected PARSE leaves unchanged: the parameters and the ports'
queues; every buffer byte but the one it fills; every slot but the one at the cursor; and the whole
store and the pending record unless it completes a frame. -/
def Obligations.ParseFrame : Prop :=
  ∀ (s t : State) (b : Byte), exec (.parse b) s = .next t →
    t.cfg = s.cfg ∧ t.reqI = s.reqI ∧ t.reqC = s.reqC ∧ t.sched = s.sched ∧ t.port = s.port ∧
    t.draws = s.draws ∧
    (∀ (k : Nat) (h : k < 4), (s.ps ≠ .receiveData ∨ k ≠ s.cnt.val) → t.buf[k] = s.buf[k]) ∧
    (∀ i, i ≠ s.wcur → t.store[i]? = s.store[i]?) ∧
    (¬ Completed t → t.store = s.store ∧ t.wcur = s.wcur ∧ t.pend = s.pend ∧ t.pidx = s.pidx ∧
      t.pold = s.pold ∧ t.poldw = s.poldw)

/-! ### READ, CURSOR, ENCODE -/

/-- R44, R91: READ of a valid index answers the visible content zero-extended if it was written, and
some word if it never was (a free value: the statement holds for every one). Nothing but the response
changes, and the count of free values drawn, which is the model's own (log entry 4). The last clause, an
index of `N` or more rejected by the meaning itself and in a next state, is the model's reading of R102
(log entries 14, DEDUCED, and 8, DESIGN CHOICE). -/
def Obligations.ReadAnswersTheVisibleSlot : Prop :=
  ∀ (s : State) (i : Byte) (c : Slot),
    (i.toNat < s.cfg.n → s.pend = true → i.toNat = s.pidx →
      (s.poldw = true → exec (.read i) s =
        .next { s with resp := some ⟨s.port, responseWord .ok 0 (s.pold.setWidth 64)⟩ }) ∧
      (s.poldw = false → ∃ v : Word, exec (.read i) s =
        .next { s with
          draws := s.draws + 1
          resp := some ⟨s.port, responseWord .ok 0 (v.setWidth 64)⟩ })) ∧
    (i.toNat < s.cfg.n → (s.pend = false ∨ i.toNat ≠ s.pidx) → s.store[i.toNat]? = some c →
      (c.wr = true → exec (.read i) s =
        .next { s with resp := some ⟨s.port, responseWord .ok 0 (c.word.setWidth 64)⟩ }) ∧
      (c.wr = false → ∃ v : Word, exec (.read i) s =
        .next { s with
          draws := s.draws + 1
          resp := some ⟨s.port, responseWord .ok 0 (v.setWidth 64)⟩ })) ∧
    (s.cfg.n ≤ i.toNat → exec (.read i) s =
      .next { s with resp := some ⟨s.port, responseWord (.rejected .badIndex) 0 0⟩ })

/-- R44, R93: CURSOR answers the visible write cursor and changes nothing but the response; in a
state of the invariant the value answered is a slot index. -/
def Obligations.CursorAnswersTheVisibleCursor : Prop :=
  ∀ s : State,
    (s.pend = true → exec .cursor s =
      .next { s with resp := some ⟨s.port, responseWord .ok 0 (BitVec.ofNat 64 s.pidx)⟩ }) ∧
    (s.pend = false → exec .cursor s =
      .next { s with resp := some ⟨s.port, responseWord .ok 0 (BitVec.ofNat 64 s.wcur)⟩ }) ∧
    (StateInv s → ∃ (t : State) (r : Response), exec .cursor s = .next t ∧ t.resp = some r ∧
      (respData r.word).toNat = visCur s ∧ visCur s < s.cfg.n)

/-- R94, R95: ENCODE answers the frame word, made of its operand and the parameters alone, and changes
nothing but the response. -/
def Obligations.EncodeAnswersTheFrame : Prop :=
  ∀ (s : State) (w : Word),
    exec (.encode w) s =
      .next { s with
        resp := some ⟨s.port, responseWord .ok 0
          (s.cfg.t2 ++ s.cfg.t1 ++ w.extractLsb' 24 8 ++ w.extractLsb' 16 8 ++ w.extractLsb' 8 8
            ++ w.extractLsb' 0 8 ++ s.cfg.h2 ++ s.cfg.h1)⟩ }

/-- R41: a request other than PARSE has no side effect, and performed again it gives the same
response, except a READ of a content never written. -/
def Obligations.RepeatedRequestAnswersTheSame : Prop :=
  ∀ (s t : State) (i : Instr), (∀ b, i ≠ .parse b) → exec i s = .next t →
    t = { s with resp := t.resp, draws := t.draws } ∧
    ((∀ k, i = .read k → s.cfg.n ≤ k.toNat ∨ visWord s k.toNat ≠ none) → exec i t = .next t)

/-- R30 (the spec's own inference from R17, R26, R44): no response to READ, CURSOR or ENCODE depends on
the parser state, the buffer or the fill count. -/
def Obligations.ParserStateIsHidden : Prop :=
  ∀ (s u : State) (i : Instr) (ps : PState) (buf : Vector Byte 4) (cnt : Fin 5),
    (∀ b, i ≠ .parse b) → exec i s = .next u →
    exec i { s with ps := ps, buf := buf, cnt := cnt } =
      .next { u with ps := ps, buf := buf, cnt := cnt }

/-- R95: an ENCODE, and any other request that is not a PARSE, performed between two PARSEs affects
neither the parser nor the store: the later PARSE answers and leaves what it would have without it. -/
def Obligations.OtherRequestsDoNotDisturbParse : Prop :=
  ∀ (s u v : State) (i : Instr) (b : Byte) (p : Port), (∀ c, i ≠ .parse c) →
    exec i s = .next u → exec (.parse b) { s with port := p } = .next v →
    exec (.parse b) { u with port := p } = .next { v with draws := u.draws }

/-! ### Every step -/

/-- The invariant (R17, R20, R22, R25, R28) is kept by every step, whatever agent takes it. -/
def Obligations.EveryStepKeepsTheInvariant : Prop :=
  ∀ s t : State, StateInv s → step s = .next t → StateInv t

/-- R82, R88, R122: every step of a state of the invariant answers a next state, and a request whose
turn it is does not wait: it is gone from the queue of its port, and answered there. That a rejected
request answers a next state too is the model's choice (log entry 8). -/
def Obligations.NoStepStops : Prop :=
  ∀ s : State, StateInv s → ∃ t, step s = .next t ∧
    ∀ (w : ReqWord) (u : State), fetch s = (.request w, u) →
      queue u.port s = w :: queue u.port t ∧ ∃ r, t.resp = some ⟨u.port, r⟩

/-- R15, R27: no step writes the parameters. -/
def Obligations.ParametersAreFixed : Prop :=
  ∀ s t : State, step s = .next t → t.cfg = s.cfg

/-- R16: the parser state, its buffer and its count are changed by nothing but a PARSE accepted from
port I, and reset. -/
def Obligations.OnlyParseMovesTheParser : Prop :=
  ∀ s t : State, step s = .next t →
    (t.ps = s.ps ∧ t.buf = s.buf ∧ t.cnt = s.cnt) ∨
    (∃ u, fetch s = (.reset, u)) ∨
    ∃ (w : ReqWord) (u : State) (b : Byte), fetch s = (.request w, u) ∧ u.port = .portI ∧
      decode u.cfg.n u.port w = .ok (.parse b)

/-- R28, R78 (the latter the spec's own inference), R89: a step that neither completes a frame nor
resets writes no slot, moves no cursor and leaves the pending record, but that a PUBLISH clears it. -/
def Obligations.OnlyCompletePushes : Prop :=
  ∀ s t : State, step s = .next t →
    (∃ u, fetch s = (.reset, u)) ∨ Completed t ∨
    (t.store = s.store ∧ t.wcur = s.wcur ∧ t.pidx = s.pidx ∧ t.pold = s.pold ∧
      t.poldw = s.poldw ∧ (t.pend = s.pend ∨ (t.pend = false ∧ fetch s = (.publish, { t with pend := true }))))

/-- R40, R43, R53, R108: a step performs at most one request, the oldest of its port, and answers it
on that port; a step that performs none answers none. -/
def Obligations.OneRequestOneResponse : Prop :=
  ∀ s t : State, step s = .next t →
    (t.resp = none ∧ t.reqI = s.reqI ∧ t.reqC = s.reqC) ∨
    (∃ w r, s.reqI = w :: t.reqI ∧ t.reqC = s.reqC ∧ t.resp = some ⟨.portI, r⟩) ∨
    (∃ w r, s.reqC = w :: t.reqC ∧ t.reqI = s.reqI ∧ t.resp = some ⟨.portC, r⟩)

/-! ### The pushes since reset -/

/-- R47 (the spec's own inference from R40, R43, R44, R45, R85, R87): from a state that the pushes `l`
lead to, a step leads to a state of some pushes `l'`. A `Complete` adds its payload as the last of
them, reset empties them, nothing else changes them; and the pushes a reader sees only ever grow, one
at a time and in order, except by reset. -/
def Obligations.EveryStepExtendsThePushes : Prop :=
  ∀ (s t : State) (l : List Word), StateInv s → AfterPushes s l → step s = .next t →
    ∃ l', AfterPushes t l' ∧
      ((l' = [] ∧ ∃ u, fetch s = (.reset, u)) ∨
        ((Completed t ∧ l' = l ++ [payloadWord s.buf] ∨ ¬ Completed t ∧ l' = l) ∧
          ∃ seen : List Word, seen.length ≤ 1 ∧
            visiblePushes t l' = visiblePushes s l ++ seen))

/-- R92 (the spec's own inference from R84, R85): the pushes of a run, after those made before it, come
to `N+3` in all, and all of them are visible. Then CURSOR answers 3 modulo `N`, and READ of slot `j`
answers the last word pushed at an index that is `j` modulo `N`; for `N` of 3 or more that is the last
three pushes in slots 0, 1 and 2 and the push of the first round in every other slot. With `l` empty the
run starts at reset (ResetInputEstablishesTheInvariant). That the cursor is 3 modulo `N`, so 0 for `N` =
3, is the model's reading (log entry 15, DEDUCED). -/
def Obligations.WraparoundKeepsTheLastRound : Prop :=
  ∀ (s t : State) (l ws : List Word), StateInv s → AfterPushes s l → PushRun s ws t →
    t.pend = false → (l ++ ws).length = s.cfg.n + 3 →
    Answers .cursor t (BitVec.ofNat 64 ((s.cfg.n + 3) % s.cfg.n)) ∧
    (∀ j, j < s.cfg.n → ∃ w : Word, lastPushTo s.cfg.n j (l ++ ws) = some w ∧
      Answers (.read (BitVec.ofNat 8 j)) t (w.setWidth 64)) ∧
    (3 ≤ s.cfg.n →
      (∀ j, j < 3 → ∃ w : Word, (l ++ ws)[s.cfg.n + j]? = some w ∧
        Answers (.read (BitVec.ofNat 8 j)) t (w.setWidth 64)) ∧
      ∀ j, 3 ≤ j → j < s.cfg.n → ∃ w : Word, (l ++ ws)[j]? = some w ∧
        Answers (.read (BitVec.ofNat 8 j)) t (w.setWidth 64))

/-- R119 (the spec's own inference from R84, R86, R93): between a CURSOR in `s` and one in `t`, a run
without a reset makes at most `N-1` new pushes visible. Then the difference of the two answers modulo
`N` is their number, and READ answers each of them, in order from the slot the first CURSOR named. -/
def Obligations.CursorDifferenceCountsNewPayloads : Prop :=
  ∀ (s t : State) (ws new : List Word), StateInv s → PushRun s ws t →
    new = visiblePushes t (pendingPush s ++ ws) → new.length + 1 ≤ s.cfg.n →
    ∃ c₁ c₂ : Nat, c₁ < s.cfg.n ∧ c₂ < s.cfg.n ∧
      Answers .cursor s (BitVec.ofNat 64 c₁) ∧ Answers .cursor t (BitVec.ofNat 64 c₂) ∧
      (c₂ + s.cfg.n - c₁) % s.cfg.n = new.length ∧
      ∀ k, k < new.length → ∃ w : Word, new[k]? = some w ∧
        Answers (.read (BitVec.ofNat 8 ((c₁ + k) % s.cfg.n))) t (w.setWidth 64)

/-- R46 (the spec's own inference from R44, R45): what `ATOMIC` does with a byte is what `LAG1` does
followed at once by PUBLISH, as far as any requester can see. -/
def Obligations.AtomicRefinesLagging : Prop :=
  ∀ (s t : State) (b : Byte), s.cfg.vis = .atomic → s.pend = false →
    exec (.parse b) s = .next t →
    ∃ u, exec (.parse b) { s with cfg := { s.cfg with vis := .lag1 } } = .next u ∧
      u.resp = t.resp ∧ u.ps = t.ps ∧ u.buf = t.buf ∧ u.cnt = t.cnt ∧ u.store = t.store ∧
      u.wcur = t.wcur ∧ visCur (publish u) = visCur t ∧
      ∀ i, visCell (publish u) i = visCell t i

/-! ### Runs -/

/-- R80, R96 (the spec's own inferences from R70 to R75, R85 and R94): a frame fed to an idle parser,
whatever came before and wherever the scheduler publishes between its bytes (R65), returns `InProgress`
seven times and then `Complete`, and pushes exactly its payload. A turn of the publisher with nothing to
publish counts as a step (log entry 13). -/
def Obligations.FedFrameIsRecognized : Prop :=
  ∀ (s : State) (w : Word) (pub : List Nat), StateInv s → s.ps = .waitHead1 → s.sched = [] →
    s.reqI = [] →
    (∀ k, 1 ≤ k → k ≤ 7 → ∃ t,
      Sys2Proof.core.run (k + (pub.take k).sum) (load pub [.feed w] s) = .next t ∧
      Responded t .portI .ok (psCode .inProgress) 0 ∧ t.store = s.store ∧ t.wcur = s.wcur) ∧
    ∃ t, Sys2Proof.core.run (8 + (pub.take 8).sum) (load pub [.feed w] s) = .next t ∧
      Responded t .portI .ok (psCode .complete) 0 ∧ t.ps = .waitHead1 ∧ t.cnt = 0 ∧
      committedWord t s.wcur = some w ∧ t.wcur = (s.wcur + 1) % s.cfg.n ∧
      ∀ i, i ≠ s.wcur → t.store[i]? = s.store[i]?

/-- R96 (the spec's own inference from R80, R85, R91, R94): once the push is visible, a READ of its
slot on either port returns the word that was framed. The program says where it publishes, so the
scheduler has no choice (log entry 16); under `ATOMIC` the publisher's turn is an idle step (log entry
13). -/
def Obligations.FramedPayloadReadsBack : Prop :=
  ∀ (s : State) (w : Word) (p : Port) (pub : List Nat), StateInv s → s.ps = .waitHead1 →
    s.sched = [] → s.reqI = [] → s.reqC = [] →
    ∃ t, Sys2Proof.core.run 10
        (load pub [.feed w, .publish, .read p (BitVec.ofNat 8 s.wcur)] s) = .next t ∧
      Responded t p .ok noStatus (w.setWidth 64)

/-- R80's counter-example (the spec's own inference from R70 to R75): after noise ending in `H1` a frame
whose later bytes hold no `H1` is not recognized, and no error is reported, wherever the scheduler
publishes (R65; a turn with nothing to publish counts as a step, log entry 13). -/
def Obligations.NoiseEndingInHeaderHidesTheFrame : Prop :=
  ∀ (s : State) (w : Word) (pub : List Nat), s.ps = .waitHead2 → s.sched = [] → s.reqI = [] →
    s.cfg.h1 ≠ s.cfg.h2 → s.cfg.t1 ≠ s.cfg.h1 → s.cfg.t2 ≠ s.cfg.h1 →
    (∀ k, k < 4 → payloadByte w k ≠ s.cfg.h1) →
    ∀ k, 1 ≤ k → k ≤ 8 → ∃ t,
      Sys2Proof.core.run (k + (pub.take k).sum) (load pub [.feed w] s) = .next t ∧
      Responded t .portI .ok (psCode .inProgress) 0 ∧ t.ps = .waitHead1 ∧
      t.store = s.store ∧ t.wcur = s.wcur

/-- R45, R48, R123, R124 (the last the spec's own inference): whatever waits and whatever turns are
chosen, FRAMER becomes quiescent in boundedly many steps. It rests on the model's default order of
turns (log entry 2), which is one fair order among those R45 allows. -/
def Obligations.EveryRunSettles : Prop :=
  ∀ s : State, StateInv s → ∃ (k : Nat) (t : State), k ≤ settleBound s ∧
    Sys2Proof.core.run k s = .next t ∧ Quiescent t ∧ t.sched = [] ∧ StateInv t

/-- R18: the suggested codes name the five parser states and codes 5 to 7 none. -/
def Obligations.ParserStateCodes : Prop :=
  ∀ (c : BitVec 3) (ps : PState), pstateOfCode c = some ps ↔ c = pstateCode ps

/-- R53 to R56: every response a step of the invariant gives is read back by a reader told the request's
opcode: the cause of the rejection if the request was rejected, a status if it was an accepted PARSE,
data if it was any other. The reader is the model's own (log entry 17). -/
def Obligations.EveryResponseIsRead : Prop :=
  ∀ (s t u : State) (w : ReqWord), StateInv s → fetch s = (.request w, u) → step s = .next t →
    ∃ (r : RespWord) (x : Reading), t.resp = some ⟨u.port, r⟩ ∧
      readResponse (opField w) r = some x ∧
      match decode u.cfg.n u.port w with
      | .error cause => x = .rejected cause
      | .ok (.parse _) => ∃ st, x = .parsed st
      | .ok _ => ∃ d, x = .answered d

/-- R65 with R45: the steps of a program without a `!publish` line are its requests and resets in its
order with PUBLISH steps anywhere, and every such placing is some choice of the scheduler; a program
with such a line publishes exactly where it says so (log entry 16, DEDUCED). -/
def Obligations.ProgramsLeavePublicationOpen : Prop :=
  ∀ (c : Config) (ls : List Line),
    (Line.publish ∈ ls → ∀ pub, programEvents pub c ls = ls.flatMap (lineEvents c)) ∧
    (Line.publish ∉ ls → ∀ es : List Event,
      es.filter (fun e => e != .publish) = ls.flatMap (lineEvents c) ↔
        ∃ pub, programEvents pub c ls = es)
end

