-- ==== Sys2Proof/Laws/Encoding.lean ====
section
/-! SUPPORT. The bits and fields of a request word (R52, R58), and when two words are one. -/

namespace Sys2Proof

/-- Bit `k` of a request word, field by field. -/
theorem getLsbD_reqWord (op : BitVec 4) (o : Word) (k : Nat) :
    (reqWord op o).getLsbD k =
      if k < 32 then o.getLsbD k else if k - 32 < 4 then false else op.getLsbD (k - 32 - 4) := by
  change BitVec.getLsbD (w := 4 + 4 + 32) (op ++ (0 : BitVec 4) ++ o) k = _
  rw [BitVec.getLsbD_append, BitVec.getLsbD_append]
  simp

/-- Bit `k` of a byte operand. -/
theorem getLsbD_byteOperand (b : Byte) (k : Nat) :
    (byteOperand b).getLsbD k = if k < 8 then b.getLsbD k else false := by
  change BitVec.getLsbD (w := 24 + 8) ((0 : BitVec 24) ++ b) k = _
  rw [BitVec.getLsbD_append]
  simp

@[simp] theorem opField_reqWord (op : BitVec 4) (o : Word) : opField (reqWord op o) = op := by
  ext i hi
  simp only [opField, BitVec.getElem_extractLsb', getLsbD_reqWord]
  rw [if_neg (by omega), if_neg (by omega), BitVec.getLsbD_eq_getElem (by omega)]
  congr 1; omega

@[simp] theorem rsvField_reqWord (op : BitVec 4) (o : Word) : rsvField (reqWord op o) = 0 := by
  ext i hi
  simp only [rsvField, BitVec.getElem_extractLsb', getLsbD_reqWord]
  rw [if_neg (by omega), if_pos (by omega)]
  simp

@[simp] theorem opndField_reqWord (op : BitVec 4) (o : Word) : opndField (reqWord op o) = o := by
  ext i hi
  simp only [opndField, BitVec.getElem_extractLsb', getLsbD_reqWord]
  rw [if_pos (by omega), BitVec.getLsbD_eq_getElem (by omega)]
  congr 1; omega

@[simp] theorem opndHigh_byteOperand (op : BitVec 4) (b : Byte) :
    opndHigh (reqWord op (byteOperand b)) = 0 := by
  ext i hi
  simp only [opndHigh, BitVec.getElem_extractLsb', getLsbD_reqWord, getLsbD_byteOperand]
  rw [if_pos (by omega), if_neg (by omega)]
  simp

@[simp] theorem opndByte_byteOperand (op : BitVec 4) (b : Byte) :
    opndByte (reqWord op (byteOperand b)) = b := by
  ext i hi
  simp only [opndByte, BitVec.getElem_extractLsb', getLsbD_reqWord, getLsbD_byteOperand]
  rw [if_pos (by omega), if_pos (by omega), BitVec.getLsbD_eq_getElem (by omega)]
  congr 1; omega

/-- A word with clear reserved bits is made of its opcode and operand fields (R52). -/
theorem reqWord_of_fields {w : ReqWord} (h : rsvField w = 0) :
    reqWord (opField w) (opndField w) = w := by
  apply BitVec.eq_of_getLsbD_eq
  intro i hi
  rw [getLsbD_reqWord]
  split
  · simp [opndField, *]
  · split
    · have := congrArg (fun v => v.getLsbD (i - 32)) h
      simp only [rsvField, BitVec.getLsbD_extractLsb'] at this
      rw [show 32 + (i - 32) = i by omega] at this
      simp_all
    · simp only [opField, BitVec.getLsbD_extractLsb']
      rw [show 36 + (i - 32 - 4) = i by omega]
      simp; omega

/-- An operand with clear high bits is a byte operand (R58). -/
theorem byteOperand_of_high {w : ReqWord} (h : opndHigh w = 0) :
    byteOperand (opndByte w) = opndField w := by
  apply BitVec.eq_of_getLsbD_eq
  intro i hi
  rw [getLsbD_byteOperand]
  split
  · simp [opndByte, opndField, *]
  · have := congrArg (fun v => v.getLsbD (i - 8)) h
    simp only [opndHigh, BitVec.getLsbD_extractLsb'] at this
    rw [show 8 + (i - 8) = i by omega] at this
    have hw : w.getLsbD i = false := by simpa [show i - 8 < 24 by omega] using this
    simp [opndField, hw]

end Sys2Proof
end

