-- ==== Sys2Proof/Laws/State.lean ====
section
/-! SUPPORT. One lemma per field for each named update of the state, so that no later proof unfolds
one. -/

namespace Sys2Proof.Machine

/-! ### A response -/

@[simp] theorem respond_ps (rc : ResultCode) (p : BitVec 2) (d : FrameWord) (s : State) : (respond rc p d s).ps = s.ps := rfl

@[simp] theorem respond_buf (rc : ResultCode) (p : BitVec 2) (d : FrameWord) (s : State) : (respond rc p d s).buf = s.buf := rfl

@[simp] theorem respond_cnt (rc : ResultCode) (p : BitVec 2) (d : FrameWord) (s : State) : (respond rc p d s).cnt = s.cnt := rfl

@[simp] theorem respond_store (rc : ResultCode) (p : BitVec 2) (d : FrameWord) (s : State) : (respond rc p d s).store = s.store := rfl

@[simp] theorem respond_wcur (rc : ResultCode) (p : BitVec 2) (d : FrameWord) (s : State) : (respond rc p d s).wcur = s.wcur := rfl

@[simp] theorem respond_pend (rc : ResultCode) (p : BitVec 2) (d : FrameWord) (s : State) : (respond rc p d s).pend = s.pend := rfl

@[simp] theorem respond_pidx (rc : ResultCode) (p : BitVec 2) (d : FrameWord) (s : State) : (respond rc p d s).pidx = s.pidx := rfl

@[simp] theorem respond_pold (rc : ResultCode) (p : BitVec 2) (d : FrameWord) (s : State) : (respond rc p d s).pold = s.pold := rfl

@[simp] theorem respond_poldw (rc : ResultCode) (p : BitVec 2) (d : FrameWord) (s : State) : (respond rc p d s).poldw = s.poldw := rfl

@[simp] theorem respond_cfg (rc : ResultCode) (p : BitVec 2) (d : FrameWord) (s : State) : (respond rc p d s).cfg = s.cfg := rfl

@[simp] theorem respond_reqI (rc : ResultCode) (p : BitVec 2) (d : FrameWord) (s : State) : (respond rc p d s).reqI = s.reqI := rfl

@[simp] theorem respond_reqC (rc : ResultCode) (p : BitVec 2) (d : FrameWord) (s : State) : (respond rc p d s).reqC = s.reqC := rfl

@[simp] theorem respond_sched (rc : ResultCode) (p : BitVec 2) (d : FrameWord) (s : State) : (respond rc p d s).sched = s.sched := rfl

@[simp] theorem respond_port (rc : ResultCode) (p : BitVec 2) (d : FrameWord) (s : State) : (respond rc p d s).port = s.port := rfl

@[simp] theorem respond_resp (rc : ResultCode) (p : BitVec 2) (d : FrameWord) (s : State) : (respond rc p d s).resp = some ⟨s.port, responseWord rc p d⟩ := rfl

@[simp] theorem respond_draws (rc : ResultCode) (p : BitVec 2) (d : FrameWord) (s : State) : (respond rc p d s).draws = s.draws := rfl


/-! ### A rejection -/

@[simp] theorem reject_ps (c : Reject) (s : State) : (reject c s).ps = s.ps := rfl

@[simp] theorem reject_buf (c : Reject) (s : State) : (reject c s).buf = s.buf := rfl

@[simp] theorem reject_cnt (c : Reject) (s : State) : (reject c s).cnt = s.cnt := rfl

@[simp] theorem reject_store (c : Reject) (s : State) : (reject c s).store = s.store := rfl

@[simp] theorem reject_wcur (c : Reject) (s : State) : (reject c s).wcur = s.wcur := rfl

@[simp] theorem reject_pend (c : Reject) (s : State) : (reject c s).pend = s.pend := rfl

@[simp] theorem reject_pidx (c : Reject) (s : State) : (reject c s).pidx = s.pidx := rfl

@[simp] theorem reject_pold (c : Reject) (s : State) : (reject c s).pold = s.pold := rfl

@[simp] theorem reject_poldw (c : Reject) (s : State) : (reject c s).poldw = s.poldw := rfl

@[simp] theorem reject_cfg (c : Reject) (s : State) : (reject c s).cfg = s.cfg := rfl

@[simp] theorem reject_reqI (c : Reject) (s : State) : (reject c s).reqI = s.reqI := rfl

@[simp] theorem reject_reqC (c : Reject) (s : State) : (reject c s).reqC = s.reqC := rfl

@[simp] theorem reject_sched (c : Reject) (s : State) : (reject c s).sched = s.sched := rfl

@[simp] theorem reject_port (c : Reject) (s : State) : (reject c s).port = s.port := rfl

@[simp] theorem reject_resp (c : Reject) (s : State) : (reject c s).resp = some ⟨s.port, responseWord (.rejected c) noStatus 0⟩ := rfl

@[simp] theorem reject_draws (c : Reject) (s : State) : (reject c s).draws = s.draws := rfl


/-! ### The cursor's advance -/

@[simp] theorem advanceCursor_ps (s : State) : (advanceCursor s).ps = s.ps := rfl

@[simp] theorem advanceCursor_buf (s : State) : (advanceCursor s).buf = s.buf := rfl

@[simp] theorem advanceCursor_cnt (s : State) : (advanceCursor s).cnt = s.cnt := rfl

@[simp] theorem advanceCursor_store (s : State) : (advanceCursor s).store = s.store := rfl

@[simp] theorem advanceCursor_wcur (s : State) : (advanceCursor s).wcur = (s.wcur + 1) % s.cfg.n := rfl

@[simp] theorem advanceCursor_pend (s : State) : (advanceCursor s).pend = s.pend := rfl

@[simp] theorem advanceCursor_pidx (s : State) : (advanceCursor s).pidx = s.pidx := rfl

@[simp] theorem advanceCursor_pold (s : State) : (advanceCursor s).pold = s.pold := rfl

@[simp] theorem advanceCursor_poldw (s : State) : (advanceCursor s).poldw = s.poldw := rfl

@[simp] theorem advanceCursor_cfg (s : State) : (advanceCursor s).cfg = s.cfg := rfl

@[simp] theorem advanceCursor_reqI (s : State) : (advanceCursor s).reqI = s.reqI := rfl

@[simp] theorem advanceCursor_reqC (s : State) : (advanceCursor s).reqC = s.reqC := rfl

@[simp] theorem advanceCursor_sched (s : State) : (advanceCursor s).sched = s.sched := rfl

@[simp] theorem advanceCursor_port (s : State) : (advanceCursor s).port = s.port := rfl

@[simp] theorem advanceCursor_resp (s : State) : (advanceCursor s).resp = s.resp := rfl

@[simp] theorem advanceCursor_draws (s : State) : (advanceCursor s).draws = s.draws := rfl


/-! ### PUBLISH -/

@[simp] theorem publish_ps (s : State) : (publish s).ps = s.ps := rfl

@[simp] theorem publish_buf (s : State) : (publish s).buf = s.buf := rfl

@[simp] theorem publish_cnt (s : State) : (publish s).cnt = s.cnt := rfl

@[simp] theorem publish_store (s : State) : (publish s).store = s.store := rfl

@[simp] theorem publish_wcur (s : State) : (publish s).wcur = s.wcur := rfl

@[simp] theorem publish_pend (s : State) : (publish s).pend = false := rfl

@[simp] theorem publish_pidx (s : State) : (publish s).pidx = s.pidx := rfl

@[simp] theorem publish_pold (s : State) : (publish s).pold = s.pold := rfl

@[simp] theorem publish_poldw (s : State) : (publish s).poldw = s.poldw := rfl

@[simp] theorem publish_cfg (s : State) : (publish s).cfg = s.cfg := rfl

@[simp] theorem publish_reqI (s : State) : (publish s).reqI = s.reqI := rfl

@[simp] theorem publish_reqC (s : State) : (publish s).reqC = s.reqC := rfl

@[simp] theorem publish_sched (s : State) : (publish s).sched = s.sched := rfl

@[simp] theorem publish_port (s : State) : (publish s).port = s.port := rfl

@[simp] theorem publish_resp (s : State) : (publish s).resp = s.resp := rfl

@[simp] theorem publish_draws (s : State) : (publish s).draws = s.draws := rfl


/-! ### The reset input -/

@[simp] theorem resetInput_ps (s : State) : (resetInput s).ps = .waitHead1 := rfl

@[simp] theorem resetInput_buf (s : State) : (resetInput s).buf = Config.resetBuf s.draws s.buf := rfl

@[simp] theorem resetInput_cnt (s : State) : (resetInput s).cnt = 0 := rfl

@[simp] theorem resetInput_store (s : State) : (resetInput s).store = resetStore s := rfl

@[simp] theorem resetInput_wcur (s : State) : (resetInput s).wcur = 0 := rfl

@[simp] theorem resetInput_pend (s : State) : (resetInput s).pend = false := rfl

@[simp] theorem resetInput_pidx (s : State) : (resetInput s).pidx = Config.resetPidx s.draws s.pidx % s.cfg.n := rfl

@[simp] theorem resetInput_pold (s : State) : (resetInput s).pold = Config.resetPold s.draws s.pold := rfl

@[simp] theorem resetInput_poldw (s : State) : (resetInput s).poldw = Config.resetPoldw s.draws s.poldw := rfl

@[simp] theorem resetInput_cfg (s : State) : (resetInput s).cfg = s.cfg := rfl

@[simp] theorem resetInput_reqI (s : State) : (resetInput s).reqI = s.reqI := rfl

@[simp] theorem resetInput_reqC (s : State) : (resetInput s).reqC = s.reqC := rfl

@[simp] theorem resetInput_sched (s : State) : (resetInput s).sched = s.sched := rfl

@[simp] theorem resetInput_port (s : State) : (resetInput s).port = s.port := rfl

@[simp] theorem resetInput_resp (s : State) : (resetInput s).resp = s.resp := rfl

@[simp] theorem resetInput_draws (s : State) : (resetInput s).draws = s.draws + 1 := rfl


end Sys2Proof.Machine
end

