-- ==== Sys2Proof/Laws/Memory.lean ====
section
/-! SUPPORT. Every store operation keeps the store's form (R22, R28: exactly `N` slots), and a slot
read after a write. -/

namespace Sys2Proof.Machine

@[simp] theorem memory_wf_iff (n : Nat) (m : List Slot) :
    Memory.wf n m = true ↔ m.length = n := by
  simp [Memory.wf]

theorem memory_wf_reset : Memory.wf State.reset.cfg.n State.reset.store = true := by
  decide

theorem memWrite_keeps_wf {i : Nat} {w : Word} {s t : State}
    (h : memWrite i w s = .ok t) (hw : Memory.wf s.cfg.n s.store = true) :
    Memory.wf t.cfg.n t.store = true := by
  unfold memWrite at h
  split at h
  · cases h; simpa using hw
  · cases h

theorem resetStore_wf (s : State) : Memory.wf s.cfg.n (resetStore s) = true := by
  simp [resetStore]

/-- A slot of the store after reset is unwritten. -/
theorem mem_resetStore {s : State} {c : Slot} (h : c ∈ resetStore s) : c.wr = false := by
  simp only [resetStore, List.mem_map] at h
  obtain ⟨i, -, rfl⟩ := h
  rfl

/-- The slot written holds the word and is marked written (R85). -/
theorem memWrite_same {i : Nat} {w : Word} {s t : State} (h : memWrite i w s = .ok t) :
    t.store[i]? = some ⟨w, true⟩ := by
  unfold memWrite at h
  split at h
  · cases h; simp_all
  · cases h

/-- Every other slot reads as before. -/
theorem memWrite_other {i j : Nat} {w : Word} {s t : State} (h : memWrite i w s = .ok t)
    (hj : j ≠ i) : t.store[j]? = s.store[j]? := by
  unfold memWrite at h
  split at h
  · cases h; simp [Ne.symm hj]
  · cases h

end Sys2Proof.Machine
end

