-- ==== Sys2Proof/Laws/Ops.lean ====
section
/-! SUPPORT. What each shared operation can do, said once. -/

namespace Sys2Proof.Machine

/-- A read of a written visible content returns it and changes nothing (R44). -/
theorem memRead_written {s : State} {i : Nat} {v : Word} (h : visWord s i = some v) :
    memRead i s = .ok (v, s) := by
  unfold visWord at h
  unfold memRead
  cases hc : visCell s i with
  | none => simp [hc] at h
  | some c =>
    cases hw : c.wr with
    | true => simp_all
    | false => simp [hc, hw] at h

/-- A read of a visible content never written returns a draw and counts it (R44). -/
theorem memRead_unwritten {s : State} {i : Nat} {c : Slot} (h : visCell s i = some c)
    (hw : c.wr = false) :
    memRead i s = .ok (Config.draw s.draws i c.word, { s with draws := s.draws + 1 }) := by
  simp [memRead, h, hw]

/-- All a read can answer: a word, and a state that differs at most in the count of draws. -/
theorem memRead_ok {s t : State} {i : Nat} {v : Word} (h : memRead i s = .ok (v, t)) :
    (visWord s i = some v ∧ t = s) ∨
      (visWord s i = none ∧ t = { s with draws := s.draws + 1 }) := by
  unfold memRead at h
  unfold visWord
  cases hc : visCell s i with
  | none => simp [hc] at h
  | some c =>
    cases hw : c.wr with
    | true =>
      simp only [hc, hw, if_true, Except.ok.injEq, Prod.mk.injEq] at h
      exact .inl ⟨by simp [hw, h.1], h.2.symm⟩
    | false =>
      simp only [hc, hw, Bool.false_eq_true, if_false, Except.ok.injEq, Prod.mk.injEq] at h
      exact .inr ⟨by simp [hw], h.2.symm⟩

/-- PUSH under `LAG1` (R85). -/
theorem push_lag1 {s : State} {old : Slot} (w : Word) (hv : s.cfg.vis = .lag1)
    (h : s.store[s.wcur]? = some old) :
    push w s = .ok { s with
      pend := true, pidx := s.wcur, pold := old.word, poldw := old.wr
      store := s.store.set s.wcur ⟨w, true⟩
      wcur := (s.wcur + 1) % s.cfg.n } := by
  obtain ⟨hl, rfl⟩ := List.getElem?_eq_some_iff.mp h
  simp [push, recordPending, memWrite, advanceCursor, hv, hl]

/-- PUSH under `ATOMIC` (R85). -/
theorem push_atomic {s : State} {old : Slot} (w : Word) (hv : s.cfg.vis = .atomic)
    (h : s.store[s.wcur]? = some old) :
    push w s = .ok { s with
      store := s.store.set s.wcur ⟨w, true⟩
      wcur := (s.wcur + 1) % s.cfg.n } := by
  have hl : s.wcur < s.store.length := (List.getElem?_eq_some_iff.mp h).1
  simp [push, recordPending, memWrite, advanceCursor, hv, hl]

/-- PUSH stops only where the cursor names no slot. -/
theorem push_absent {s : State} (w : Word) (h : s.store[s.wcur]? = none) :
    push w s = .error .slotAbsent := by
  have hl : ¬ s.wcur < s.store.length := by
    simpa using h
  cases hv : s.cfg.vis <;> simp [push, recordPending, memWrite, hv, hl]

/-- All a PUSH can answer: the slot at the cursor existed, and one of the two settings' results. -/
theorem push_ok {s t : State} {w : Word} (h : push w s = .ok t) :
    ∃ old, s.store[s.wcur]? = some old ∧
      ((s.cfg.vis = .lag1 ∧ t = { s with
          pend := true, pidx := s.wcur, pold := old.word, poldw := old.wr
          store := s.store.set s.wcur ⟨w, true⟩
          wcur := (s.wcur + 1) % s.cfg.n }) ∨
        (s.cfg.vis = .atomic ∧ t = { s with
          store := s.store.set s.wcur ⟨w, true⟩
          wcur := (s.wcur + 1) % s.cfg.n })) := by
  cases hs : s.store[s.wcur]? with
  | none => rw [push_absent w hs] at h; cases h
  | some old =>
    refine ⟨old, rfl, ?_⟩
    cases hv : s.cfg.vis with
    | lag1 =>
      rw [push_lag1 w hv hs] at h
      exact .inl ⟨rfl, (Except.ok.inj h).symm⟩
    | atomic =>
      rw [push_atomic w hv hs] at h
      exact .inr ⟨rfl, (Except.ok.inj h).symm⟩

end Sys2Proof.Machine
end

