-- ==== Sys2Proof/Laws/Parser.lean ====
section
/-! SUPPORT. All a transition of the parser can answer, said once (R70 to R74). -/

namespace Sys2Proof.Machine

/-- What a transition answers: a step of the header search, a byte filled, a trailer byte accepted, a
trailer mismatch, or a completed frame with its push. -/
inductive ParseCase (b : Byte) (s : State) : ParseStatus → State → Prop where
  | headerOne (ps : s.ps = .waitHead1) :
      ParseCase b s .inProgress
        { s with ps := if b = s.cfg.h1 then .waitHead2 else .waitHead1 }
  | headerTwo (ps : s.ps = .waitHead2) :
      ParseCase b s .inProgress
        { s with ps := if b = s.cfg.h2 then .receiveData else .waitHead1 }
  | data (ps : s.ps = .receiveData) (h : s.cnt.val < 4) :
      ParseCase b s .inProgress
        { s with
          buf := s.buf.set s.cnt.val b h
          cnt := ⟨s.cnt.val + 1, by omega⟩
          ps := if s.cnt.val + 1 = 4 then .waitTail1 else .receiveData }
  | trailerOne (ps : s.ps = .waitTail1) (hb : b = s.cfg.t1) :
      ParseCase b s .inProgress { s with ps := .waitTail2 }
  | mismatch (ps : s.ps = .waitTail1 ∧ b ≠ s.cfg.t1 ∨ s.ps = .waitTail2 ∧ b ≠ s.cfg.t2) :
      ParseCase b s .error { s with ps := .waitHead1, cnt := 0 }
  | complete (ps : s.ps = .waitTail2) (hb : b = s.cfg.t2) (t : State)
      (hp : push (payloadWord s.buf) s = .ok t) :
      ParseCase b s .complete { t with ps := .waitHead1, cnt := 0 }

theorem parseByte_ok {b : Byte} {s t : State} {st : ParseStatus}
    (h : parseByte b s = .ok (st, t)) : ParseCase b s st t := by
  unfold parseByte at h
  split at h
  case h_1 hp =>
    have : st = .inProgress ∧ t = { s with ps := if b = s.cfg.h1 then .waitHead2 else .waitHead1 } := by
      unfold stepWaitHead1 at h
      split at h <;> cases h <;> simp_all
    obtain ⟨rfl, rfl⟩ := this
    exact .headerOne hp
  case h_2 hp =>
    have : st = .inProgress ∧ t = { s with ps := if b = s.cfg.h2 then .receiveData else .waitHead1 } := by
      unfold stepWaitHead2 at h
      split at h <;> cases h <;> simp_all
    obtain ⟨rfl, rfl⟩ := this
    exact .headerTwo hp
  case h_3 hp =>
    unfold stepReceiveData at h
    split at h
    · cases h; exact .data hp ‹_›
    · cases h
  case h_4 hp =>
    unfold stepWaitTail1 at h
    split at h
    · cases h; exact .trailerOne hp ‹_›
    · cases h; exact .mismatch (.inl ⟨hp, ‹_›⟩)
  case h_5 hp =>
    unfold stepWaitTail2 at h
    split at h
    · split at h
      · cases h; exact .complete hp ‹_› _ ‹_›
      · cases h
    · cases h; exact .mismatch (.inr ⟨hp, ‹_›⟩)

/-- All a PARSE can answer with a next state: a rejection on port C, or a transition's answer. -/
theorem execParse_next {b : Byte} {s t : State} (h : execParse b s = .next t) :
    (s.port = .portC ∧ t = reject .badPort s) ∨
      (s.port = .portI ∧ ∃ st u, ParseCase b s st u ∧ t = respond .ok (psCode st) 0 u) := by
  unfold execParse at h
  split at h
  · cases h; exact .inl ⟨‹_›, rfl⟩
  · split at h
    · cases h; exact .inr ⟨‹_›, _, _, parseByte_ok ‹_›, rfl⟩
    · cases h

/-- A PARSE on port I of a transition that answers. -/
theorem execParse_of_ok {b : Byte} {s u : State} {st : ParseStatus} (hp : s.port = .portI)
    (h : parseByte b s = .ok (st, u)) :
    execParse b s = .next (respond .ok (psCode st) 0 u) := by
  simp [execParse, hp, h]

end Sys2Proof.Machine
end

