-- ==== Sys2Proof/Laws/PerInstr.lean ====
section
/-! SUPPORT. The statements made per instruction: the word of each request fits its own row of
spec/opcode_table.json. -/

namespace Sys2Proof.Laws.TableRow

/-- The row's "mask", as the table writes it: the opcode and every must-be-zero bit. -/
def mask : Instr → ReqWord
  | .parse _ => 0xFFFFFFFF00
  | .encode _ => 0xFF00000000
  | .read _ => 0xFFFFFFFF00
  | .cursor => 0xFFFFFFFFFF

/-- The row's "match", as the table writes it. -/
def fixedBits : Instr → ReqWord
  | .parse _ => 0x1000000000
  | .encode _ => 0x2000000000
  | .read _ => 0x3000000000
  | .cursor => 0x4000000000

/-- The request's word has its row's fixed bits (R57, R61). -/
def Statement (i : Instr) : Prop :=
  Sys2Proof.encode i &&& mask i = fixedBits i

theorem parse (b : Byte) : Statement (.parse b) := by
  apply BitVec.eq_of_getLsbD_eq
  intro k hk
  simp only [Sys2Proof.encode, mask, fixedBits, BitVec.getLsbD_and, getLsbD_reqWord,
    getLsbD_byteOperand]
  interval_cases k <;> simp

theorem encode (w : Word) : Statement (.encode w) := by
  apply BitVec.eq_of_getLsbD_eq
  intro k hk
  simp only [Sys2Proof.encode, mask, fixedBits, BitVec.getLsbD_and, getLsbD_reqWord]
  interval_cases k <;> simp

theorem read (i : Byte) : Statement (.read i) := by
  apply BitVec.eq_of_getLsbD_eq
  intro k hk
  simp only [Sys2Proof.encode, mask, fixedBits, BitVec.getLsbD_and, getLsbD_reqWord,
    getLsbD_byteOperand]
  interval_cases k <;> simp

theorem cursor : Statement .cursor := by
  unfold Statement
  decide

end Sys2Proof.Laws.TableRow
end

