-- ==== Sys2Proof/Laws/Program.lean ====
section
/-! SUPPORT. How a written program is placed in the state, and the scheduler's PUBLISH steps in it
(R65, R45). -/

namespace Sys2Proof.Machine

@[simp] theorem addEvent_cfg (s : State) (e : Event) : (addEvent s e).cfg = s.cfg := by
  cases e with
  | request p w => cases p <;> rfl
  | publish => rfl
  | reset => rfl

/-- Publisher turns placed one after another stand at the end of the turns chosen. -/
theorem foldl_addEvent_publish (n : Nat) (s : State) :
    (List.replicate n Event.publish).foldl addEvent s =
      { s with sched := s.sched ++ List.replicate n .publisher } := by
  induction n generalizing s with
  | zero => simp
  | succ n ih => simp [List.replicate_succ, ih, addEvent]

/-- A program with no `!publish` line has no PUBLISH step of its own (R65). -/
theorem ne_publish_of_lines {c : Config} {ls : List Line} (h : Line.publish ∉ ls) {e : Event}
    (he : e ∈ ls.flatMap (lineEvents c)) : e ≠ .publish := by
  obtain ⟨l, hl, he⟩ := List.mem_flatMap.mp he
  cases l with
  | publish => exact absurd hl h
  | feed w => simp [lineEvents] at he; obtain ⟨a, -, rfl⟩ := he; simp
  | _ => simp [lineEvents] at he; subst he; simp

/-- The scheduler adds PUBLISH steps and neither drops nor reorders a step of the program. -/
theorem withPublishes_filter (pub : List Nat) {es : List Event} (h : ∀ e ∈ es, e ≠ .publish) :
    (withPublishes pub es).filter (fun e => e != .publish) = es := by
  induction es generalizing pub with
  | nil => cases pub <;> simp [withPublishes]
  | cons e es ih =>
    have he := h e (by simp)
    have hs : ∀ a ∈ es, a ≠ .publish := fun a ha => h a (by simp [ha])
    cases pub with
    | nil => simpa [withPublishes, he] using hs
    | cons n ns => simp [withPublishes, he, ih ns hs]

end Sys2Proof.Machine
end

