-- ==== Sys2Proof/Laws/Response.lean ====
section
/-! SUPPORT. The fields of a response word (R53 to R55). -/

namespace Sys2Proof.Machine

/-- Bit `k` of a response word, field by field. -/
theorem getLsbD_responseWord (rc : ResultCode) (ps : BitVec 2) (d : FrameWord) (k : Nat) :
    (responseWord rc ps d).getLsbD k =
      if k < 64 then d.getLsbD k
      else if k - 64 < 2 then ps.getLsbD (k - 64)
      else if k - 64 - 2 < 2 then false
      else (rcCode rc).getLsbD (k - 64 - 2 - 2) := by
  change BitVec.getLsbD (w := 4 + 2 + 2 + 64) (rcCode rc ++ (0 : BitVec 2) ++ ps ++ d) k = _
  rw [BitVec.getLsbD_append, BitVec.getLsbD_append, BitVec.getLsbD_append]
  simp

@[simp] theorem respRc_responseWord (rc : ResultCode) (ps : BitVec 2) (d : FrameWord) :
    respRc (responseWord rc ps d) = rcCode rc := by
  ext i hi
  simp only [respRc, BitVec.getElem_extractLsb', getLsbD_responseWord]
  rw [if_neg (by omega), if_neg (by omega), if_neg (by omega), BitVec.getLsbD_eq_getElem (by omega)]
  congr 1; omega

@[simp] theorem respZ_responseWord (rc : ResultCode) (ps : BitVec 2) (d : FrameWord) :
    respZ (responseWord rc ps d) = 0 := by
  ext i hi
  simp only [respZ, BitVec.getElem_extractLsb', getLsbD_responseWord]
  rw [if_neg (by omega), if_neg (by omega), if_pos (by omega)]
  simp

@[simp] theorem respPs_responseWord (rc : ResultCode) (ps : BitVec 2) (d : FrameWord) :
    respPs (responseWord rc ps d) = ps := by
  ext i hi
  simp only [respPs, BitVec.getElem_extractLsb', getLsbD_responseWord]
  rw [if_neg (by omega), if_pos (by omega), BitVec.getLsbD_eq_getElem (by omega)]
  congr 1; omega

@[simp] theorem respData_responseWord (rc : ResultCode) (ps : BitVec 2) (d : FrameWord) :
    respData (responseWord rc ps d) = d := by
  ext i hi
  simp only [respData, BitVec.getElem_extractLsb', getLsbD_responseWord]
  rw [if_pos (by omega), BitVec.getLsbD_eq_getElem (by omega)]
  congr 1; omega

/-- The result codes have distinct codes, and a code read back is the result it stands for (R54). -/
@[simp] theorem rcOfCode_rcCode (rc : ResultCode) : rcOfCode (rcCode rc) = some rc := by
  rcases rc with _ | c
  · rfl
  · cases c <;> rfl

/-- As for the result codes (R55). -/
@[simp] theorem psOfCode_psCode (st : ParseStatus) : psOfCode (psCode st) = some st := by
  cases st <;> rfl

/-- A code that names a result is that result's code (R54). -/
theorem eq_rcCode {c : BitVec 4} {rc : ResultCode} (h : rcOfCode c = some rc) : c = rcCode rc := by
  unfold rcOfCode at h
  split_ifs at h <;> cases h <;> simp_all [rcCode]

/-- A code that names a status is that status's code (R55). -/
theorem eq_psCode {c : BitVec 2} {st : ParseStatus} (h : psOfCode c = some st) : c = psCode st := by
  unfold psOfCode at h
  split_ifs at h <;> cases h <;> simp_all [psCode]

/-- A word with no bit of `Z` set is the response word of its fields (R53). -/
theorem eq_responseWord {w : RespWord} {rc : ResultCode} (hz : respZ w = 0)
    (hrc : respRc w = rcCode rc) : w = responseWord rc (respPs w) (respData w) := by
  apply BitVec.eq_of_getLsbD_eq
  intro k hk
  rw [getLsbD_responseWord, ← hrc]
  split
  · simp [respData, *]
  · split
    · simp [respPs, *, show 64 + (k - 64) = k by omega]
    · split
      · have := congrArg (fun v => v.getLsbD (k - 66)) hz
        simpa [respZ, show 66 + (k - 66) = k by omega, show k - 66 < 2 by omega] using this
      · simp [respRc, show 68 + (k - 64 - 2 - 2) = k by omega]; omega

theorem psCode_inj {a b : ParseStatus} (h : psCode a = psCode b) : a = b := by
  simpa using congrArg psOfCode h

end Sys2Proof.Machine
end

