-- ==== Sys2Proof/Laws/Step.lean ====
section
/-! SUPPORT. What the requests, the choice of a turn and a step can do, each said once. -/

namespace Sys2Proof.Machine

/-- All a READ can answer with a next state (R91). -/
theorem execRead_next {i : Byte} {s t : State} (h : execRead i s = .next t) :
    (s.cfg.n ≤ i.toNat ∧ t = reject .badIndex s) ∨
      (i.toNat < s.cfg.n ∧ ∃ v u, memRead i.toNat s = .ok (v, u) ∧
        t = respond .ok noStatus (v.setWidth 64) u) := by
  unfold execRead at h
  split at h
  · cases h; exact .inl ⟨‹_›, rfl⟩
  · split at h
    · cases h; exact .inr ⟨by omega, _, _, ‹_›, rfl⟩
    · cases h

/-- A request other than PARSE leaves everything but the response and the count of draws (R41). -/
theorem exec_other_next {i : Instr} {s t : State} (hi : ∀ b, i ≠ .parse b)
    (h : exec i s = .next t) :
    ∃ rc d k, t = { s with
      draws := k
      resp := some ⟨s.port, responseWord rc noStatus d⟩ } := by
  cases i with
  | parse b => exact absurd rfl (hi b)
  | encode w => cases h; exact ⟨_, _, s.draws, rfl⟩
  | cursor => cases h; exact ⟨_, _, s.draws, rfl⟩
  | read i =>
    rcases execRead_next h with ⟨-, rfl⟩ | ⟨-, v, u, hm, rfl⟩
    · exact ⟨_, _, s.draws, rfl⟩
    · rcases memRead_ok hm with ⟨-, rfl⟩ | ⟨-, rfl⟩
      · exact ⟨_, _, u.draws, rfl⟩
      · exact ⟨_, _, s.draws + 1, rfl⟩

/-- All the choice of a turn can answer: the turn is used up, the last response is gone, and either
the oldest request of a port is taken (R43), or PUBLISH is enabled (R87), or reset was chosen, or
nothing is done; nothing is done for want of a choice only where nothing waits. -/
inductive FetchCase (s : State) : Turn → State → Prop where
  | requestI (w : ReqWord) (ws : List ReqWord) (h : s.reqI = w :: ws) :
      FetchCase s (.request w)
        { s with sched := s.sched.tail, resp := none, reqI := ws, port := .portI }
  | requestC (w : ReqWord) (ws : List ReqWord) (h : s.reqC = w :: ws) :
      FetchCase s (.request w)
        { s with sched := s.sched.tail, resp := none, reqC := ws, port := .portC }
  | publish (h : publishEnabled s = true) :
      FetchCase s .publish { s with sched := s.sched.tail, resp := none }
  | reset (h : s.sched.head? = some .resetSource) :
      FetchCase s .reset { s with sched := s.sched.tail, resp := none }
  | idle (h : s.sched = [] → publishEnabled s = false ∧ s.reqI = [] ∧ s.reqC = []) :
      FetchCase s .idle { s with sched := s.sched.tail, resp := none }

/-- Whose turn it is by default: the publisher's, else port I's, else port C's. -/
theorem defaultAgent_cases (s : State) :
    (publishEnabled s = true ∧ defaultAgent s = .publisher) ∨
    (publishEnabled s = false ∧ s.reqI ≠ [] ∧ defaultAgent s = .port .portI) ∨
    (publishEnabled s = false ∧ s.reqI = [] ∧ defaultAgent s = .port .portC) := by
  unfold defaultAgent
  cases publishEnabled s with
  | true => simp
  | false => by_cases h : s.reqI = [] <;> simp [h]

/-- A chosen or default turn of an agent. -/
theorem takeTurn_case (a : Agent) (s : State)
    (hr : a = .resetSource → s.sched.head? = some .resetSource)
    (hd : s.sched = [] → a = defaultAgent s) :
    FetchCase s (takeTurn a { s with sched := s.sched.tail, resp := none }).1
      (takeTurn a { s with sched := s.sched.tail, resp := none }).2 := by
  have he : publishEnabled { s with sched := s.sched.tail, resp := none } = publishEnabled s := rfl
  cases a with
  | port p =>
    have hp : s.sched = [] → publishEnabled s = false ∧
        (p = .portI ∧ s.reqI ≠ [] ∨ p = .portC ∧ s.reqI = []) := by
      intro h
      have := hd h
      rcases defaultAgent_cases s with ⟨-, e⟩ | ⟨e1, e2, e⟩ | ⟨e1, e2, e⟩ <;> simp_all
    cases p with
    | portI =>
      cases h : s.reqI with
      | nil =>
        have hc : s.sched = [] → False := fun hs => by simpa [h] using (hp hs).2
        simp only [takeTurn, takeRequest, queue]
        simpa only [h] using FetchCase.idle (s := s) fun hs => (hc hs).elim
      | cons w ws =>
        simp only [takeTurn, takeRequest, queue, setQueue]
        exact .requestI w ws h
    | portC =>
      cases h : s.reqC with
      | nil =>
        simp only [takeTurn, takeRequest, queue]
        have hc : s.sched = [] → publishEnabled s = false ∧ s.reqI = [] ∧ s.reqC = [] := fun hs =>
          ⟨(hp hs).1, by simpa using (hp hs).2, h⟩
        simpa only [h] using FetchCase.idle hc
      | cons w ws =>
        simp only [takeTurn, takeRequest, queue, setQueue]
        exact .requestC w ws h
  | publisher =>
    cases h : publishEnabled s with
    | true => simpa [takeTurn, he, h] using FetchCase.publish h
    | false =>
      have hc : s.sched = [] → False := by
        intro hs
        have := hd hs
        rcases defaultAgent_cases s with ⟨e1, -⟩ | ⟨-, -, e⟩ | ⟨-, -, e⟩
        · rw [h] at e1; cases e1
        · rw [e] at this; cases this
        · rw [e] at this; cases this
      simpa [takeTurn, he, h] using FetchCase.idle (s := s) fun hs => (hc hs).elim
  | resetSource => exact .reset (hr rfl)

theorem fetch_case (s : State) : FetchCase s (fetch s).1 (fetch s).2 := by
  cases h : s.sched with
  | nil =>
    have e : fetch s = takeTurn (defaultAgent s) { s with sched := s.sched.tail, resp := none } := by
      simp [fetch, h]
    rw [e]
    refine takeTurn_case _ s (fun hr => ?_) fun _ => rfl
    rcases defaultAgent_cases s with ⟨-, e⟩ | ⟨-, -, e⟩ | ⟨-, -, e⟩ <;> simp_all
  | cons a rest =>
    have e : fetch s = takeTurn a { s with sched := s.sched.tail, resp := none } := by
      simp [fetch, h]
    rw [e]
    exact takeTurn_case a s (by simp_all) (by simp_all)

theorem fetch_eq {s u : State} {x : Turn} (h : fetch s = (x, u)) : FetchCase s x u := by
  have := fetch_case s
  rwa [h] at this

/-- All a step can do with a next state. -/
theorem step_next {s t : State} (h : step s = .next t) :
    (∃ w u i, fetch s = (.request w, u) ∧ decode u.cfg.n u.port w = .ok i ∧ exec i u = .next t) ∨
    (∃ w u c, fetch s = (.request w, u) ∧ decode u.cfg.n u.port w = .error c ∧ t = reject c u) ∨
    (∃ u, fetch s = (.publish, u) ∧ t = publish u) ∨
    (∃ u, fetch s = (.reset, u) ∧ t = resetInput u) ∨
    fetch s = (.idle, t) := by
  unfold step at h
  split at h
  · split at h
    · exact .inl ⟨_, _, _, ‹_›, ‹_›, h⟩
    · cases h; exact .inr (.inl ⟨_, _, _, ‹_›, ‹_›, rfl⟩)
  · cases h; exact .inr (.inr (.inl ⟨_, ‹_›, rfl⟩))
  · cases h; exact .inr (.inr (.inr (.inl ⟨_, ‹_›, rfl⟩)))
  · cases h; exact .inr (.inr (.inr (.inr ‹_›)))

end Sys2Proof.Machine
end

