-- ==== Sys2Proof/Tests/Slice0.lean ====
section
/-! SUPPORT. Tests of the model's own: decoding of words written out bit by bit from spec/30_encoding.md,
the well-formedness smoke test, single steps with the results of spec/95_test_vectors.md, and for every
statement with hypotheses a state and operands that meet them. -/

namespace Sys2Proof.Tests

open Sys2Proof.Machine

/-! ### Decoding (R52, R57, R58): OP, RSV, OPND written out bit by bit -/

theorem test_decode_parse :
    decode 10 .portI 0b0001000000000000000000000000000010101010 = .ok (.parse 0xAA) := by decide

theorem test_decode_encode :
    decode 10 .portC 0b0010000000111111100000000000000000000000 = .ok (.encode 0x3F800000) := by
  decide

theorem test_decode_read :
    decode 10 .portC 0b0011000000000000000000000000000000001001 = .ok (.read 9) := by decide

theorem test_decode_cursor :
    decode 10 .portC 0b0100000000000000000000000000000000000000 = .ok .cursor := by decide

/-- Vector D-2: the all-zero word is no request. -/
theorem test_decode_zero : decode 10 .portC 0 = .error .badOpcode := by decide

/-- Vector E-6: ENCODE with `RSV = 1`. -/
theorem test_decode_reserved : decode 10 .portC 0x2100000000 = .error .badReserved := by decide

theorem test_tableWord_read255 : decodeTableWord 40 0x30000000FF = some (.read 255) := by decide

/-! ### Well-formedness: a term refused by each check, and its neighbour that passes -/

theorem test_wf_port : Instr.WellFormed 10 .portC (.parse 0xAA) = false := by decide

theorem test_wf_portI : Instr.WellFormed 10 .portI (.parse 0xAA) = true := by decide

theorem test_wf_index : Instr.WellFormed 10 .portC (.read 10) = false := by decide

theorem test_wf_lastIndex : Instr.WellFormed 10 .portC (.read 9) = true := by decide

/-! ### Small states -/

/-- The state after reset with a parser state and fill count, and the buffer of vector W-2 row 8. -/
def parserAt (ps : PState) (cnt : Fin 5) : State :=
  { State.reset with ps := ps, cnt := cnt, buf := ⟨#[1, 2, 3, 4], rfl⟩ }

/-- The state after one push of `w` from reset, still pending. -/
def onePending (w : Word) : State :=
  { State.reset with
    store := State.reset.store.set 0 ⟨w, true⟩
    wcur := 1, pend := true, pidx := 0, pold := 0, poldw := false }

/-- The last slot of the store written before and overwritten by a push still pending: cursor 9 wraps
to 0. -/
def wrappedPending (old new : Word) : State :=
  { State.reset with
    store := List.replicate 9 ⟨0, true⟩ ++ [⟨new, true⟩]
    wcur := 0, pend := true, pidx := 9, pold := old, poldw := true }

/-- `STORE_VIS = ATOMIC`. -/
def atomicAt (ps : PState) (cnt : Fin 5) : State :=
  { parserAt ps cnt with cfg := { Config.reference with vis := .atomic } }

/-- The response word of a next state. -/
def answer (o : Result) : Option RespWord :=
  match o with
  | .next t => t.resp.map Response.word
  | _ => none

/-- A field of a next state. -/
def after {α : Type} (o : Result) (f : State → α) : Option α :=
  match o with
  | .next t => some (f t)
  | _ => none

/-! ### Single steps: at most two a request, expected results from spec/95_test_vectors.md -/

/-- W-2 row 8. -/
theorem test_parse_complete :
    after (exec (.parse 0xFF) (parserAt .waitTail2 4))
      (fun t => (t.ps, t.cnt, t.store[0]?, t.wcur, t.pend)) =
      some (.waitHead1, 0, some ⟨0x04030201, true⟩, 1, true) := by decide

/-- W-2 row 9: the response of a trailer error. -/
theorem test_parse_error :
    answer (exec (.parse 0x55) (parserAt .waitTail2 4)) = some 0x020000000000000000 := by decide

/-- E-4. -/
theorem test_encode_markers :
    answer (exec (.encode 0xFAAAFFAA) State.reset) = some 0x00FFFAFAAAFFAAAFAA := by decide

/-- R91: the slot of a pending push reads as before it. -/
theorem test_read_pending :
    answer (exec (.read 9) (wrappedPending 0x11111111 0x22222222)) =
      some 0x000000000011111111 := by decide

/-- S-9. -/
theorem test_read_badIndex :
    answer (exec (.read 10) State.reset) = some 0x400000000000000000 := by decide

/-- S-4. -/
theorem test_cursor_pending :
    answer (exec .cursor (onePending 0x3F800000)) = some 0x000000000000000000 := by decide

/-- S-6: after PUBLISH. -/
theorem test_cursor_published :
    answer (exec .cursor (publish (onePending 0x3F800000))) = some 0x000000000000000001 := by decide

/-- The first line of Program D, placed as the host places a word. -/
theorem test_step_first_word :
    after (step (State.reset.withFetchWord 40 0x10000000AA)) (fun t => (t.ps, t.reqI, t.sched)) =
      some (.waitHead2, [], []) := by decide

/-- Line 2 of Program D: PARSE on port C, parser unchanged. -/
theorem test_step_rejected :
    after (step (load [] [.word .portC 0x10000000AF] (parserAt .waitHead2 0)))
      (fun t => (t.ps, t.resp)) =
      some (.waitHead2, some ⟨.portC, 0x200000000000000000⟩) := by decide

/-- R65: each port's line waits in its own queue, and the turns keep the lines' order. The program
publishes where it says so, and the scheduler's choice plays no part. -/
theorem test_load_order :
    let s := load [1, 1] [.cursor .portC, .publish, .parse 0, .reset] State.reset
    (s.reqI, s.reqC, s.sched) = ([0x1000000000], [0x4000000000],
      [.port .portC, .publisher, .port .portI, .resetSource]) := by decide

/-- R65: a program with no `!publish` line leaves the PUBLISH steps to the scheduler: here one before
the second line and two at the end. -/
theorem test_load_scheduler :
    (load [0, 1, 2] [.parse 0, .read .portC 3] State.reset).sched =
      [.port .portI, .publisher, .port .portC, .publisher, .publisher] := by decide

/-- R55: `PS = 0b00` is `InProgress` only after an accepted PARSE. -/
theorem test_read_noStatus :
    readResponse 0x1 0 = some (.parsed .inProgress) ∧ readResponse 0x4 0 = some (.answered 0) ∧
    readResponse 0x1 0x100000000000000000 = some (.rejected .badOpcode) := by decide

/-- R55: a rejection with a status, and a status that no PARSE answered, are refused. -/
theorem test_read_misplacedStatus :
    readResponse 0x1 0x310000000000000000 = none ∧ readResponse 0x4 0x020000000000000000 = none := by
  decide

/-! ### Witnesses: states and operands that meet the hypotheses of the statements -/

theorem witness_decodeOfEncode :
    Instr.WellFormed 10 .portI (.parse 0xFF) = true ∧
    Instr.WellFormed 10 .portC (.encode 0xFFFFFFFF) = true ∧
    Instr.WellFormed 10 .portC (.read 9) = true ∧ Instr.WellFormed 256 .portC (.read 255) = true ∧
    Instr.WellFormed 1 .portC .cursor = true := by decide

theorem witness_acceptedWord : decode 10 .portC 0x3000000009 = .ok (.read 9) := by decide

theorem witness_responseFieldsReadBack :
    readResponse 0x1 0x020000000000000000 = some (.parsed .error) ∧
    readResponse 0x3 0x00000000003F800000 = some (.answered 0x3F800000) ∧
    readResponse 0x4 0x0000000000000000FF = some (.answered 0xFF) ∧
    readResponse 0x3 0x400000000000000000 = some (.rejected .badIndex) ∧
    readResponse 0x1 0x040000000000000000 = none ∧ readResponse 0x1 0x500000000000000000 = none ∧
    readResponse 0x1 0x030000000000000000 = none ∧ readResponse 0x3 0x000000000100000000 = none ∧
    readResponse 0x4 0x000000000000000100 = none := by decide

/-- The last byte of a word and of a frame (`k` at the top of its range). -/
theorem witness_byte_offsets : (3 : Nat) < 4 ∧ (7 : Nat) < 8 := by decide

/-- A request on port I and one on port C, each chosen next. -/
theorem witness_stepPerforms :
    (let s := load [] [.parse 0xAA] State.reset
     s.sched = [.port .portI] ∧ s.reqI = [0x10000000AA] ∧
      decode s.cfg.n .portI 0x10000000AA = .ok (.parse 0xAA)) ∧
    (let s := load [] [.read .portC 9] State.reset
     s.sched = [.port .portC] ∧ s.reqC = [0x3000000009] ∧
      decode s.cfg.n .portC 0x3000000009 = .ok (.read 9)) := by decide

/-- The turn taken and the response word for one request word issued after reset. -/
def verdict (p : Port) (w : ReqWord) : (Turn × State) × Option RespWord :=
  (fetch (load [] [.word p w] State.reset), answer (step (load [] [.word p w] State.reset)))

/-- The turn that takes a request word issued after reset. -/
def taken (p : Port) (w : ReqWord) : Turn × State :=
  (.request w, { State.reset with port := p })

/-- Every rejection, at the boundary of its check: opcodes 0 and 5, PARSE on port C with a reserved bit
set, a reserved bit at each end of its field, index 10. -/
theorem witness_requestVerdicts_rejected :
    verdict .portI 0x0000000000 = (taken .portI 0x0000000000, some 0x100000000000000000) ∧
    verdict .portI 0x5100000000 = (taken .portI 0x5100000000, some 0x100000000000000000) ∧
    verdict .portC 0x1100000000 = (taken .portC 0x1100000000, some 0x200000000000000000) ∧
    verdict .portI 0x1100000000 = (taken .portI 0x1100000000, some 0x300000000000000000) ∧
    verdict .portI 0x1000000100 = (taken .portI 0x1000000100, some 0x300000000000000000) ∧
    verdict .portC 0x2800000000 = (taken .portC 0x2800000000, some 0x300000000000000000) := by
  decide

theorem witness_requestVerdicts_rejected_store :
    verdict .portC 0x3100000010 = (taken .portC 0x3100000010, some 0x300000000000000000) ∧
    verdict .portC 0x3080000000 = (taken .portC 0x3080000000, some 0x300000000000000000) ∧
    verdict .portC 0x4000000001 = (taken .portC 0x4000000001, some 0x300000000000000000) ∧
    verdict .portC 0x300000000A = (taken .portC 0x300000000A, some 0x400000000000000000) := by
  decide

/-- Each request accepted, READ with the last index. -/
theorem witness_requestVerdicts_accepted :
    verdict .portI 0x10000000AA = (taken .portI 0x10000000AA, some 0x000000000000000000) ∧
    verdict .portC 0x2000000000 = (taken .portC 0x2000000000, some 0x00FFFA00000000AFAA) ∧
    verdict .portC 0x4000000000 = (taken .portC 0x4000000000, some 0x000000000000000000) ∧
    (verdict .portC 0x3000000009).1 = taken .portC 0x3000000009 := by
  decide

/-- Each clause of the default turns, and the two idle turns. -/
theorem witness_stepWithoutAChosenRequest :
    (let s := onePending 7
     s.sched = [] ∧ s.pend = true ∧ s.cfg.vis = .lag1) ∧
    (let s := { State.reset with reqI := [0x10000000AA] }
     s.sched = [] ∧ s.pend = false ∧ decode s.cfg.n .portI 0x10000000AA = .ok (.parse 0xAA)) ∧
    (let s := { atomicAt .waitHead1 0 with reqC := [0x4000000000] }
     s.sched = [] ∧ s.cfg.vis = .atomic ∧ s.reqI = [] ∧
      decode s.cfg.n .portC 0x4000000000 = .ok .cursor) ∧
    (let s := State.reset
     s.sched = [] ∧ s.pend = false ∧ s.reqI = [] ∧ s.reqC = []) ∧
    (let s := { State.reset with sched := [.port .portI, .port .portC] }
     s.sched = .port .portI :: [.port .portC] ∧ s.reqI = []) ∧
    (let s := { State.reset with sched := [.port .portC] }
     s.sched = .port .portC :: [] ∧ s.reqC = []) := by decide

theorem witness_publish :
    (let s := { onePending 7 with sched := [.publisher] }
     s.sched = .publisher :: [] ∧ s.pend = true ∧ s.cfg.vis = .lag1) ∧
    (let s := { State.reset with sched := [.publisher] }
     s.sched = .publisher :: [] ∧ s.pend = false) ∧
    (let s := { atomicAt .waitHead1 0 with sched := [.publisher] }
     s.sched = .publisher :: [] ∧ s.cfg.vis = .atomic) := by decide

/-- A frame partly received and a push pending when reset is asserted. -/
theorem witness_resetInput :
    let s := { onePending 7 with ps := .receiveData, cnt := 2, sched := [.resetSource] }
    s.sched = .resetSource :: [] ∧ ∃ t, step s = .next t :=
  ⟨rfl, _, rfl⟩

theorem witness_parse_states :
    (let s := parserAt .waitHead1 0; s.port = .portI ∧ s.ps = .waitHead1) ∧
    (let s := parserAt .waitHead2 0; s.port = .portI ∧ s.ps = .waitHead2) ∧
    (let s := parserAt .receiveData 0
     s.cnt.val < 4 ∧ s.port = .portI ∧ s.ps = .receiveData) ∧
    (let s := parserAt .receiveData 3
     s.cnt.val < 4 ∧ s.port = .portI ∧ s.ps = .receiveData) ∧
    (let s := parserAt .waitTail1 4; s.port = .portI ∧ s.ps = .waitTail1) := by decide

/-- Cursor 0 and cursor 9, `LAG1` and `ATOMIC`, `T2` and another byte. -/
theorem witness_parseInWaitTail2 :
    (let s := parserAt .waitTail2 4
     s.port = .portI ∧ s.ps = .waitTail2 ∧ s.store[s.wcur]? = some ⟨0, false⟩ ∧
      (0xFF : Byte) = s.cfg.t2 ∧ s.cfg.vis = .lag1 ∧ (0xAA : Byte) ≠ s.cfg.t2) ∧
    (let s := { parserAt .waitTail2 4 with wcur := 9 }
     s.store[s.wcur]? = some ⟨0, false⟩ ∧ (0xFF : Byte) = s.cfg.t2 ∧ s.cfg.vis = .lag1) ∧
    (let s := atomicAt .waitTail2 4
     s.port = .portI ∧ s.ps = .waitTail2 ∧ s.store[s.wcur]? = some ⟨0, false⟩ ∧
      (0xFF : Byte) = s.cfg.t2 ∧ s.cfg.vis = .atomic) := by decide

theorem witness_parseOnPortC : ({ State.reset with port := .portC } : State).port = .portC := rfl

theorem witness_stopsOutsideTheInvariant :
    (let s := parserAt .receiveData 4
     s.port = .portI ∧ s.ps = .receiveData ∧ s.cnt = 4) ∧
    (let s := { parserAt .waitTail2 4 with wcur := 10 }
     s.port = .portI ∧ s.ps = .waitTail2 ∧ (0xFF : Byte) = s.cfg.t2 ∧ s.store[s.wcur]? = none) ∧
    (let s := { State.reset with store := [] }
     (9 : Byte).toNat < s.cfg.n ∧ s.pend = false ∧ s.store[(9 : Byte).toNat]? = none) := by decide

/-- The invariant in every parser state, with a push pending, and under `ATOMIC`. -/
theorem witness_inv_waitHead1 : StateInv (parserAt .waitHead1 0) := by constructor <;> decide

theorem witness_inv_waitHead2 : StateInv (parserAt .waitHead2 0) := by constructor <;> decide

theorem witness_inv_receiveData : StateInv (parserAt .receiveData 3) := by constructor <;> decide

theorem witness_inv_waitTail1 : StateInv (parserAt .waitTail1 4) := by constructor <;> decide

theorem witness_inv_waitTail2 : StateInv (parserAt .waitTail2 4) := by constructor <;> decide

theorem witness_inv_pending : StateInv (onePending 7) := by constructor <;> decide

theorem witness_inv_wrapped : StateInv (wrappedPending 1 2) := by constructor <;> decide

theorem witness_inv_atomic : StateInv (atomicAt .waitTail2 4) := by constructor <;> decide

/-- Statements about an invariant state and a PARSE on port I that answers. -/
theorem witness_parse_answers :
    StateInv (parserAt .waitTail2 4) ∧ (parserAt .waitTail2 4).port = .portI ∧
      ∃ t, exec (.parse 0xFF) (parserAt .waitTail2 4) = .next t :=
  ⟨witness_inv_waitTail2, rfl, _, rfl⟩

/-- A PARSE that answers `Complete`, and one that answers `Error`. -/
theorem witness_parserIdle :
    (∃ t, exec (.parse 0xFF) (parserAt .waitTail2 4) = .next t ∧
      Responded t .portI .ok (psCode .complete) 0) ∧
    (∃ t, exec (.parse 0xAA) (parserAt .waitTail1 4) = .next t ∧
      Responded t .portI .ok (psCode .error) 0) :=
  ⟨⟨_, rfl, rfl⟩, ⟨_, rfl, rfl⟩⟩

/-- A PARSE that fills the last buffer byte: it completes no frame and leaves the other bytes. -/
theorem witness_parseFrame :
    ∃ t, exec (.parse 0x55) (parserAt .receiveData 3) = .next t ∧
      t.resp = some ⟨.portI, 0x000000000000000000⟩ :=
  ⟨_, rfl, by decide⟩

/-- Each clause of READ: a pending slot whose old content was written or not, a committed slot that was
written or not, and the first index out of range. -/
theorem witness_read :
    (let s := wrappedPending 1 2
     (9 : Byte).toNat < s.cfg.n ∧ s.pend = true ∧ (9 : Byte).toNat = s.pidx ∧ s.poldw = true) ∧
    (let s := onePending 7
     (0 : Byte).toNat < s.cfg.n ∧ s.pend = true ∧ (0 : Byte).toNat = s.pidx ∧ s.poldw = false) ∧
    (let s := wrappedPending 1 2
     (8 : Byte).toNat < s.cfg.n ∧ (8 : Byte).toNat ≠ s.pidx ∧
      s.store[(8 : Byte).toNat]? = some ⟨0, true⟩) ∧
    (let s := State.reset
     (9 : Byte).toNat < s.cfg.n ∧ s.pend = false ∧ s.store[(9 : Byte).toNat]? = some ⟨0, false⟩) ∧
    State.reset.cfg.n ≤ (10 : Byte).toNat := by decide

theorem witness_cursor :
    (wrappedPending 1 2).pend = true ∧ State.reset.pend = false ∧ StateInv (wrappedPending 1 2) :=
  ⟨rfl, rfl, witness_inv_wrapped⟩

/-- Requests other than PARSE that answer: an unwritten slot, a written one, a rejected index, and the
two others. -/
theorem witness_other_requests :
    (∀ b, Instr.read 0 ≠ .parse b) ∧ (∃ t, exec (.read 0) State.reset = .next t) ∧
    (∃ t, exec (.read 8) (wrappedPending 1 2) = .next t) ∧
    visWord (wrappedPending 1 2) 8 ≠ none ∧
    (∃ t, exec (.read 10) State.reset = .next t) ∧ State.reset.cfg.n ≤ (10 : Byte).toNat ∧
    (∀ b, Instr.cursor ≠ .parse b) ∧ (∃ t, exec .cursor State.reset = .next t) ∧
    (∀ b, Instr.encode 0 ≠ .parse b) ∧ ∃ t, exec (.encode 0) State.reset = .next t :=
  ⟨by intro b; nofun, ⟨_, rfl⟩, ⟨_, rfl⟩, by decide, ⟨_, rfl⟩, by decide, by intro b; nofun, ⟨_, rfl⟩,
    by intro b; nofun, ⟨_, rfl⟩⟩

/-- A READ, and after it a PARSE on port I. -/
theorem witness_otherRequestsDoNotDisturb :
    (∀ b, Instr.read 0 ≠ .parse b) ∧ (∃ u, exec (.read 0) (parserAt .waitTail2 4) = .next u) ∧
      ∃ v, exec (.parse 0xFF) { parserAt .waitTail2 4 with port := .portI } = .next v :=
  ⟨by intro b; nofun, ⟨_, rfl⟩, _, rfl⟩

/-- A step of each kind from a state of the invariant: a request, PUBLISH, reset, nothing. -/
theorem witness_steps :
    StateInv (parserAt .waitTail2 4) ∧
    (∃ t, step ((parserAt .waitTail2 4).withFetchWord 40 0x10000000FF) = .next t) ∧
    (∃ t, step (onePending 7) = .next t) ∧
    (∃ t, step { State.reset with sched := [.resetSource] } = .next t) ∧
    ∃ t, step State.reset = .next t :=
  ⟨witness_inv_waitTail2, ⟨_, rfl⟩, ⟨_, rfl⟩, ⟨_, rfl⟩, ⟨_, rfl⟩⟩

/-- One push, still pending: the readers see none of it. -/
theorem witness_afterPushes_pending : AfterPushes (onePending 7) [7] := by
  refine ⟨?_, ?_, by decide⟩
  · unfold ViewAfter; decide
  · unfold ViewAfter; decide

/-- A state of the invariant with a push behind it, and a step from it. -/
theorem witness_everyStepExtends :
    StateInv (onePending 7) ∧ AfterPushes (onePending 7) [7] ∧ ∃ t, step (onePending 7) = .next t :=
  ⟨witness_inv_pending, witness_afterPushes_pending, _, rfl⟩

/-- Before the last byte of a frame with payload 0x107, port I's turn with that byte waiting. -/
def lastByte (last : Fin 256) (vis : StoreVis) (store : List Slot) (wcur : Nat) : State :=
  { State.reset with
    cfg := { Config.reference with lastSlot := last, vis := vis }
    ps := .waitTail2, cnt := 4, buf := ⟨#[0x07, 0x01, 0, 0], rfl⟩
    store := store, wcur := wcur
    reqI := [0x10000000FF], sched := [.port .portI] }

/-- Four slots after six pushes under `LAG1`; the run makes the seventh and publishes it. -/
theorem witness_wraparound :
    let s := lastByte 3 .lag1 [⟨0x105, true⟩, ⟨0x106, true⟩, ⟨0x103, true⟩, ⟨0x104, true⟩] 2
    StateInv s ∧ AfterPushes s [0x101, 0x102, 0x103, 0x104, 0x105, 0x106] ∧
    (∃ t, PushRun s [0x00000107] t ∧ t.pend = false) ∧
    ([0x101, 0x102, 0x103, 0x104, 0x105, 0x106] ++ [(0x107 : Word)]).length = s.cfg.n + 3 ∧
    3 ≤ s.cfg.n := by
  refine ⟨?_, ⟨?_, ?_, by decide⟩,
    ⟨_, .quiet (.complete .here (by intro v; nofun) rfl ⟨_, rfl, by decide⟩) (by intro v; nofun) rfl
      (by rintro ⟨r, hr, -⟩; cases hr), rfl⟩, by decide, by decide⟩
  · constructor <;> decide
  · unfold ViewAfter; decide
  · unfold ViewAfter; decide

/-- The smallest store, under `ATOMIC`: its fourth push. -/
theorem witness_wraparound_one :
    let s := lastByte 0 .atomic [⟨0x103, true⟩] 0
    StateInv s ∧ AfterPushes s [0x101, 0x102, 0x103] ∧
    (∃ t, PushRun s [0x00000107] t ∧ t.pend = false) ∧
    ([0x101, 0x102, 0x103] ++ [(0x107 : Word)]).length = s.cfg.n + 3 := by
  refine ⟨?_, ⟨?_, ?_, by decide⟩,
    ⟨_, .complete .here (by intro v; nofun) rfl ⟨_, rfl, by decide⟩, rfl⟩, by decide⟩
  · constructor <;> decide
  · unfold ViewAfter; decide
  · unfold ViewAfter; decide

/-- Two slots with a push pending: the run makes one more, which publishes the first. That is `N-1` new
visible pushes, the most the statement allows. -/
theorem witness_cursorDifference :
    let s : State := { lastByte 1 .lag1 [⟨0x105, true⟩, ⟨0x106, true⟩] 0 with
      pend := true, pidx := 1, pold := 0x104, poldw := true }
    StateInv s ∧ ∃ t, PushRun s [0x00000107] t ∧
      visiblePushes t (pendingPush s ++ [0x00000107]) = [0x106] ∧
      [(0x106 : Word)].length + 1 ≤ s.cfg.n := by
  refine ⟨?_, _, .complete .here (by intro v; nofun) rfl ⟨_, rfl, by decide⟩, by decide, by decide⟩
  constructor <;> decide

/-- A program with a `!publish` line and one without, whose steps with a PUBLISH between them keep its
order. -/
theorem witness_programs :
    Line.publish ∈ [Line.parse 0, .publish] ∧ Line.publish ∉ [Line.parse 0, .reset] ∧
    [Event.request .portI 0x1000000000, .publish, .reset].filter (fun e => e != .publish) =
      [Line.parse 0, .reset].flatMap (lineEvents Config.reference) := by decide

/-- A request whose turn it is, of each verdict, and its step. -/
theorem witness_responseRead :
    StateInv (parserAt .waitTail2 4) ∧ StateInv ((parserAt .waitTail2 4).withFetchWord 40 0x10000000FF) ∧
    (fetch ((parserAt .waitTail2 4).withFetchWord 40 0x10000000FF)).1 = .request 0x10000000FF ∧
    (∃ t, step ((parserAt .waitTail2 4).withFetchWord 40 0x10000000FF) = .next t) ∧
    (fetch ((parserAt .waitTail2 4).withFetchWord 40 0x300000000A)).1 = .request 0x300000000A ∧
    (∃ t, step ((parserAt .waitTail2 4).withFetchWord 40 0x300000000A) = .next t) ∧
    (fetch ((parserAt .waitTail2 4).withFetchWord 40 0x4000000000)).1 = .request 0x4000000000 ∧
    ∃ t, step ((parserAt .waitTail2 4).withFetchWord 40 0x4000000000) = .next t :=
  ⟨witness_inv_waitTail2, by constructor <;> decide, rfl, ⟨_, rfl⟩, rfl, ⟨_, rfl⟩, rfl, _, rfl⟩

theorem witness_atomicRefines :
    (atomicAt .waitTail2 4).cfg.vis = .atomic ∧ (atomicAt .waitTail2 4).pend = false ∧
      ∃ t, exec (.parse 0xFF) (atomicAt .waitTail2 4) = .next t :=
  ⟨rfl, rfl, _, rfl⟩

/-- An idle parser with nothing waiting: the frame statements, with a push pending beside it too. -/
theorem witness_fed :
    (StateInv (onePending 7) ∧ (onePending 7).ps = .waitHead1 ∧ (onePending 7).sched = [] ∧
      (onePending 7).reqI = [] ∧ (onePending 7).reqC = []) ∧
    StateInv (atomicAt .waitHead1 0) ∧ (1 : Nat) ≤ 7 :=
  ⟨⟨witness_inv_pending, rfl, rfl, rfl, rfl⟩, by constructor <;> decide, by decide⟩

theorem witness_noise :
    let s := parserAt .waitHead2 0
    s.ps = .waitHead2 ∧ s.sched = [] ∧ s.reqI = [] ∧ s.cfg.h1 ≠ s.cfg.h2 ∧ s.cfg.t1 ≠ s.cfg.h1 ∧
      s.cfg.t2 ≠ s.cfg.h1 ∧ ∀ k, k < 4 → payloadByte 0x04030201 k ≠ s.cfg.h1 := by decide

/-- Turns chosen, requests waiting on both ports and a push pending. -/
theorem witness_settles :
    StateInv { onePending 7 with
      reqI := [0x10000000AA], reqC := [0x5000000000], sched := [.port .portC, .resetSource] } := by
  constructor <;> decide

end Sys2Proof.Tests
end

section
/-! PROOFS. The state after reset against the values of R7 and R31 (spec/00_scope.md,
spec/10_state.md). -/

namespace Sys2Proof.Machine

/-- The default capacity (R7). -/
@[simp] theorem reference_n : Config.reference.n = 10 := rfl

/-- The store after reset has the `N` slots of R22, by its canonical form. -/
theorem reset_store_length : State.reset.store.length = State.reset.cfg.n :=
  (memory_wf_iff _ _).mp memory_wf_reset

/-- No slot is written after reset (R31); its word stays unsaid (log entry 6). -/
theorem wr_of_mem_reset_store {c : Slot} (h : c ∈ State.reset.store) : c.wr = false :=
  congrArg Slot.wr (List.eq_of_mem_replicate h)

/-- Settles O16: the capacity fixes the store's length, every slot is a fresh one, and the other
elements are those `State.reset` and `Config.reference` name. -/
theorem resetStateIsTheSpecs : Obligations.ResetStateIsTheSpecs := by
  have hlen : State.reset.store.length = 10 := reset_store_length.trans reference_n
  have hwr : ∀ c ∈ State.reset.store, c.wr = false := fun _ => wr_of_mem_reset_store
  exact ⟨rfl, rfl, rfl, rfl, hlen, hwr, reference_n, rfl, rfl, rfl, rfl, rfl⟩

end Sys2Proof.Machine
end

section
/-! PROOFS. The frame of an operation: that two states agree on every element of R17, or on the
Packet Store's part of it, and which operations leave them so (R16, R28, R41). -/

namespace Sys2Proof.Machine

/-- `t` has the parameters, the store, the cursor and the pending record of `s` (R22 to R25). -/
structure SameStore (s t : State) : Prop where
  cfg : t.cfg = s.cfg
  store : t.store = s.store
  wcur : t.wcur = s.wcur
  pend : t.pend = s.pend
  pidx : t.pidx = s.pidx
  pold : t.pold = s.pold
  poldw : t.poldw = s.poldw

/-- `t` has every element of R17 as `s` has it: the two differ at most in what stands at the ports,
the turns chosen and the count of draws. -/
structure SameFramer (s t : State) : Prop extends SameStore s t where
  ps : t.ps = s.ps
  buf : t.buf = s.buf
  cnt : t.cnt = s.cnt

/-- `t` has the parameters, the waiting requests, the turns, the port and the draw count of `s`:
what no transition of the parser writes (R38). -/
structure SameSurroundings (s t : State) : Prop where
  cfg : t.cfg = s.cfg
  reqI : t.reqI = s.reqI
  reqC : t.reqC = s.reqC
  sched : t.sched = s.sched
  port : t.port = s.port
  draws : t.draws = s.draws

theorem sameFramer_ports (s : State) (reqI reqC : List ReqWord) (sched : List Agent) (port : Port)
    (resp : Option Response) (draws : Nat) :
    SameFramer s { s with
      reqI := reqI, reqC := reqC, sched := sched, port := port, resp := resp, draws := draws } := by
  constructor
  · constructor <;> rfl
  all_goals rfl

theorem SameStore.trans {s t u : State} (h : SameStore s t) (k : SameStore t u) : SameStore s u :=
  ⟨k.cfg.trans h.cfg, k.store.trans h.store, k.wcur.trans h.wcur, k.pend.trans h.pend,
    k.pidx.trans h.pidx, k.pold.trans h.pold, k.poldw.trans h.poldw⟩

theorem SameFramer.trans {s t u : State} (h : SameFramer s t) (k : SameFramer t u) :
    SameFramer s u :=
  ⟨h.toSameStore.trans k.toSameStore, k.ps.trans h.ps, k.buf.trans h.buf, k.cnt.trans h.cnt⟩

theorem sameFramer_respond (rc : ResultCode) (ps : BitVec 2) (d : FrameWord) (s : State) :
    SameFramer s (respond rc ps d s) :=
  sameFramer_ports ..

theorem sameFramer_reject (c : Reject) (s : State) : SameFramer s (reject c s) :=
  sameFramer_respond ..

/-! ### The choice of a turn -/

theorem fetch_sameFramer {s u : State} {x : Turn} (h : fetch s = (x, u)) : SameFramer s u := by
  cases fetch_eq h <;> exact sameFramer_ports ..

/-- The last step's response is gone when the next turn is chosen (log entry 12). -/
theorem fetch_resp {s u : State} {x : Turn} (h : fetch s = (x, u)) : u.resp = none := by
  cases fetch_eq h <;> rfl

theorem fetch_publish_enabled {s u : State} (h : fetch s = (.publish, u)) :
    publishEnabled s = true := by
  cases fetch_eq h with
  | publish hp => exact hp

/-- The chosen turn of the reset source (R112). -/
theorem step_reset {s : State} {rest : List Agent} (h : s.sched = .resetSource :: rest) :
    step s = .next (resetInput { s with sched := rest, resp := none }) := by
  simp [step, fetch, takeTurn, h]

/-! ### Whether the last response is a `Complete` (R55) -/

theorem completed_iff_of_resp {t : State} {r : Response} (h : t.resp = some r) :
    Completed t ↔ respPs r.word = psCode .complete := by
  simp [Completed, h]

theorem not_completed_of_noResponse {t : State} (h : t.resp = none) : ¬ Completed t := by
  simp [Completed, h]

theorem not_completed_of_noStatus {t : State} {p : Port} {rc : ResultCode} {d : FrameWord}
    (h : t.resp = some ⟨p, responseWord rc noStatus d⟩) : ¬ Completed t := by
  rw [completed_iff_of_resp h, respPs_responseWord]
  decide

theorem not_completed_reject (c : Reject) (s : State) : ¬ Completed (reject c s) :=
  not_completed_of_noStatus (reject_resp c s)

/-- An accepted PARSE completes a frame exactly when it says so. -/
theorem completed_respond_iff (rc : ResultCode) (st : ParseStatus) (d : FrameWord) (s : State) :
    Completed (respond rc (psCode st) d s) ↔ st = .complete := by
  rw [completed_iff_of_resp (respond_resp ..), respPs_responseWord]
  exact ⟨psCode_inj, congrArg psCode⟩

end Sys2Proof.Machine
end

section
/-! PROOFS. What the views of the store depend on, and what PUSH and PARSE write in them (R44, R85,
R70 to R74). -/

namespace Sys2Proof

theorem Config.n_pos (c : Config) : 0 < c.n := Nat.succ_pos _

/-- Every slot index fits the byte operand of READ (R7, R42). -/
theorem Config.n_le (c : Config) : c.n ≤ 256 := c.lastSlot.isLt

end Sys2Proof

namespace Sys2Proof.Machine

/-! ### The views -/

theorem committedWord_congr {s t : State} {i : Nat} (h : t.store[i]? = s.store[i]?) :
    committedWord t i = committedWord s i := by
  simp only [committedWord, h]

/-- A slot that is not written shows no word. -/
theorem committedWord_unwritten {s : State} (h : ∀ c ∈ s.store, c.wr = false) (i : Nat) :
    committedWord s i = none := by
  unfold committedWord
  cases hc : s.store[i]? with
  | none => rfl
  | some c => simp [h c (List.mem_of_getElem? hc)]

/-- What READ sees where it sees slot `i` of the committed state of `s` (R44). -/
theorem visWord_eq_committedWord {s t : State} {i : Nat} (h : visCell t i = s.store[i]?) :
    visWord t i = committedWord s i := by
  simp only [visWord, committedWord, h]

theorem visCell_of_notPending {s : State} (h : s.pend = false) (i : Nat) :
    visCell s i = s.store[i]? := by
  simp [visCell, h]

theorem SameStore.visCur_eq {s t : State} (h : SameStore s t) : visCur t = visCur s := by
  simp only [visCur, h.pend, h.pidx, h.wcur]

theorem SameStore.visCell_eq {s t : State} (h : SameStore s t) (i : Nat) :
    visCell t i = visCell s i := by
  simp only [visCell, h.pend, h.pidx, h.pold, h.poldw, h.store]

theorem SameStore.visWord_eq {s t : State} (h : SameStore s t) (i : Nat) :
    visWord t i = visWord s i := by
  simp only [visWord, h.visCell_eq]

theorem SameStore.committedWord_eq {s t : State} (h : SameStore s t) (i : Nat) :
    committedWord t i = committedWord s i :=
  committedWord_congr (by rw [h.store])

/-! ### PUSH -/

/-- All a PUSH writes: the slot at the cursor, the cursor and the pending record (R28, R85). -/
theorem push_writes {s t : State} {w : Word} (h : push w s = .ok t) :
    ∃ pend pidx pold poldw, t = { s with
      pend := pend, pidx := pidx, pold := pold, poldw := poldw
      store := s.store.set s.wcur ⟨w, true⟩
      wcur := (s.wcur + 1) % s.cfg.n } := by
  obtain ⟨old, -, ⟨-, rfl⟩ | ⟨-, rfl⟩⟩ := push_ok h
  · exact ⟨_, _, _, _, rfl⟩
  · exact ⟨_, _, _, _, rfl⟩

/-- After a PUSH the committed state holds the word pushed in the slot the cursor named (R85). -/
theorem committedWord_push {s t : State} {w : Word} (h : push w s = .ok t) (i : Nat) :
    committedWord t i = if i = s.wcur then some w else committedWord s i := by
  obtain ⟨old, hold, -⟩ := push_ok h
  have hl : s.wcur < s.store.length := (List.getElem?_eq_some_iff.mp hold).1
  obtain ⟨_, _, _, _, rfl⟩ := push_writes h
  split
  case isTrue hi => subst hi; simp [committedWord, hl]
  case isFalse hi => exact committedWord_congr (by simp [Ne.symm hi])

/-- Just after a PUSH under `LAG1` a READ sees the committed state before it (R44, R85). -/
theorem visCell_push_lag1 {s t : State} {w : Word} (h : push w s = .ok t) (hv : s.cfg.vis = .lag1)
    (i : Nat) : visCell t i = s.store[i]? := by
  obtain ⟨old, hold, ⟨-, rfl⟩ | ⟨hv', -⟩⟩ := push_ok h
  · by_cases hi : i = s.wcur
    · subst hi; simp [visCell, hold]
    · simp [visCell, hi, Ne.symm hi]
  · rw [hv] at hv'; cases hv'

/-! ### PARSE -/

/-- A PARSE that completes no frame leaves the store's part of the state (R28). -/
theorem ParseCase.sameStore {b : Byte} {s t : State} {st : ParseStatus} (h : ParseCase b s st t)
    (hst : st ≠ .complete) : SameStore s t := by
  cases h with
  | complete => exact absurd rfl hst
  | _ => constructor <;> rfl

/-- A PARSE that completes a frame is a PUSH of the buffer and the parser's return to `WaitHead1`
(R74). -/
theorem ParseCase.completed {b : Byte} {s t : State} (h : ParseCase b s .complete t) :
    ∃ u, push (payloadWord s.buf) s = .ok u ∧ t = { u with ps := .waitHead1, cnt := 0 } := by
  cases h with
  | complete _ _ u hp => exact ⟨u, hp, rfl⟩

/-- A transition of the parser writes the parser and the store's part of the state alone (R38). -/
theorem ParseCase.surroundings {b : Byte} {s t : State} {st : ParseStatus}
    (h : ParseCase b s st t) : SameSurroundings s t := by
  cases h with
  | complete _ _ u hp =>
    obtain ⟨_, _, _, _, rfl⟩ := push_writes hp
    constructor <;> rfl
  | _ => constructor <;> rfl

/-- Every transition leaves a fill count that goes with its parser state (R20). -/
theorem ParseCase.fillOk {b : Byte} {s t : State} {st : ParseStatus} (h : ParseCase b s st t)
    (hf : fillOk s.ps s.cnt = true) : fillOk t.ps t.cnt = true := by
  cases h with
  | headerOne hps => rw [hps] at hf; dsimp only; split <;> exact hf
  | headerTwo hps =>
    rw [hps] at hf
    have hc : s.cnt = 0 := by simpa [Machine.fillOk] using hf
    dsimp only
    split <;> simp [Machine.fillOk, hc]
  | data _ hc =>
    dsimp only
    split
    case isTrue h4 => simp [Machine.fillOk, h4]
    case isFalse h4 => simp only [Machine.fillOk, decide_eq_true_eq]; omega
  | trailerOne hps => rw [hps] at hf; exact hf
  | mismatch => rfl
  | complete => rfl

end Sys2Proof.Machine
end

section
/-! PROOFS. All a step can do to the elements of R17, said once (R16, R40, R78, R87, R112). -/

namespace Sys2Proof.Machine

/-- What a step does to the elements of R17: nothing and no frame completed (a rejection, a request
other than PARSE, an idle turn), a PUBLISH, a reset, or a transition of the parser on port I. -/
inductive StepCase (s : State) : State → Prop where
  | quiet {t : State} (same : SameFramer s t) (noFrame : ¬ Completed t) : StepCase s t
  | publish {u : State} (turn : fetch s = (.publish, u)) : StepCase s (publish u)
  | reset {u : State} (turn : fetch s = (.reset, u)) : StepCase s (resetInput u)
  | parse {w : ReqWord} {u v : State} {b : Byte} {st : ParseStatus}
      (turn : fetch s = (.request w, u)) (port : u.port = .portI)
      (decoded : decode u.cfg.n u.port w = .ok (.parse b)) (parsed : ParseCase b u st v) :
      StepCase s (respond .ok (psCode st) 0 v)

/-- A request other than PARSE leaves every element of R17 and completes no frame (R41). -/
theorem exec_other_quiet {i : Instr} {s t : State} (hi : ∀ b, i ≠ .parse b)
    (h : exec i s = .next t) : SameFramer s t ∧ ¬ Completed t := by
  obtain ⟨rc, d, k, rfl⟩ := exec_other_next hi h
  exact ⟨sameFramer_ports .., not_completed_of_noStatus rfl⟩

theorem step_case {s t : State} (h : step s = .next t) : StepCase s t := by
  rcases step_next h with ⟨w, u, i, hf, hd, he⟩ | ⟨w, u, c, hf, -, rfl⟩ | ⟨u, hf, rfl⟩ |
    ⟨u, hf, rfl⟩ | hf
  · have hu := fetch_sameFramer hf
    by_cases hi : ∃ b, i = .parse b
    · obtain ⟨b, rfl⟩ := hi
      rcases execParse_next he with ⟨-, rfl⟩ | ⟨hp, st, v, hc, rfl⟩
      · exact .quiet (hu.trans (sameFramer_reject ..)) (not_completed_reject _ _)
      · exact .parse hf hp hd hc
    · obtain ⟨hs, hn⟩ := exec_other_quiet (not_exists.mp hi) he
      exact .quiet (hu.trans hs) hn
  · exact .quiet ((fetch_sameFramer hf).trans (sameFramer_reject ..)) (not_completed_reject _ _)
  · exact .publish hf
  · exact .reset hf
  · exact .quiet (fetch_sameFramer hf) (not_completed_of_noResponse (fetch_resp hf))

end Sys2Proof.Machine
end

section
/-! PROOFS. The invariant (R17, R20, R22, R25, R28, R46): what establishes it and what keeps it. -/

namespace Sys2Proof.Machine

/-- A state with an idle parser, its slots, the cursor at 0 and nothing pending has the
invariant. -/
theorem stateInv_of_idle {s : State} (hps : s.ps = .waitHead1) (hcnt : s.cnt = 0)
    (hslots : Memory.wf s.cfg.n s.store = true) (hcur : s.wcur = 0) (hpend : s.pend = false)
    (hidx : s.pidx < s.cfg.n) : StateInv s where
  fill := by rw [hps, hcnt]; rfl
  slots := hslots
  cursor := hcur ▸ s.cfg.n_pos
  pendingSlot := hidx
  pendingIsLast := by simp [hpend]
  pendingWritten := by simp [hpend]
  atomicNeverPends := fun _ => hpend

theorem stateInv_resetInput (s : State) : StateInv (resetInput s) :=
  stateInv_of_idle rfl rfl (resetStore_wf s) rfl rfl (Nat.mod_lt _ s.cfg.n_pos)

/-- The invariant reads the store's part of the state, and of the parser only what R20 says. -/
theorem StateInv.of_sameStore {s t : State} (hi : StateInv s) (h : SameStore s t)
    (hf : fillOk t.ps t.cnt = true) : StateInv t where
  fill := hf
  slots := by rw [h.cfg, h.store]; exact hi.slots
  cursor := by rw [h.cfg, h.wcur]; exact hi.cursor
  pendingSlot := by rw [h.cfg, h.pidx]; exact hi.pendingSlot
  pendingIsLast := by rw [h.cfg, h.pend, h.pidx, h.wcur]; exact hi.pendingIsLast
  pendingWritten := by rw [h.pend, h.pidx, h.committedWord_eq]; exact hi.pendingWritten
  atomicNeverPends := by rw [h.cfg, h.pend]; exact hi.atomicNeverPends

theorem StateInv.of_sameFramer {s t : State} (hi : StateInv s) (h : SameFramer s t) : StateInv t :=
  hi.of_sameStore h.toSameStore (by rw [h.ps, h.cnt]; exact hi.fill)

theorem StateInv.publish {s : State} (hi : StateInv s) : StateInv (publish s) where
  fill := hi.fill
  slots := hi.slots
  cursor := hi.cursor
  pendingSlot := hi.pendingSlot
  pendingIsLast := by simp
  pendingWritten := by simp
  atomicNeverPends := fun _ => rfl

/-- The slot at the cursor exists (R22). -/
theorem StateInv.slotAtCursor {s : State} (hi : StateInv s) :
    ∃ old, s.store[s.wcur]? = some old := by
  have hl : s.wcur < s.store.length := (memory_wf_iff _ _).mp hi.slots ▸ hi.cursor
  exact ⟨_, List.getElem?_eq_getElem hl⟩

/-- A PUSH leaves its own slot pending, written and just before the cursor (R25, R85). -/
theorem StateInv.push {s t : State} {w : Word} (hi : StateInv s) (h : push w s = .ok t) :
    StateInv t := by
  have hw := committedWord_push h s.wcur
  obtain ⟨old, -, ⟨hv, rfl⟩ | ⟨hv, rfl⟩⟩ := push_ok h
  · exact {
      fill := hi.fill
      slots := by simpa using hi.slots
      cursor := Nat.mod_lt _ s.cfg.n_pos
      pendingSlot := hi.cursor
      pendingIsLast := fun _ => rfl
      pendingWritten := fun _ => by rw [hw]; simp
      atomicNeverPends := fun ha => by rw [hv] at ha; cases ha }
  · have hp : s.pend = false := hi.atomicNeverPends hv
    exact {
      fill := hi.fill
      slots := by simpa using hi.slots
      cursor := Nat.mod_lt _ s.cfg.n_pos
      pendingSlot := hi.pendingSlot
      pendingIsLast := by simp [hp]
      pendingWritten := by simp [hp]
      atomicNeverPends := fun _ => hp }

theorem ParseCase.stateInv {b : Byte} {s t : State} {st : ParseStatus} (h : ParseCase b s st t)
    (hi : StateInv s) : StateInv t := by
  by_cases hst : st = .complete
  · subst hst
    obtain ⟨u, hu, rfl⟩ := h.completed
    exact (hi.push hu).of_sameStore (by constructor <;> rfl) rfl
  · exact hi.of_sameStore (h.sameStore hst) (h.fillOk hi.fill)

/-- Settles O35: of the four things a step can do, nothing, PUBLISH and a transition of the parser
keep the invariant and reset establishes it. -/
theorem everyStepKeepsTheInvariant : Obligations.EveryStepKeepsTheInvariant := by
  intro s t hi h
  cases step_case h with
  | quiet same => exact hi.of_sameFramer same
  | publish turn => exact (hi.of_sameFramer (fetch_sameFramer turn)).publish
  | reset => exact stateInv_resetInput _
  | parse turn _ _ parsed =>
    exact (parsed.stateInv (hi.of_sameFramer (fetch_sameFramer turn))).of_sameFramer
      (sameFramer_respond ..)

end Sys2Proof.Machine
end

section
/-! PROOFS. The pushes a state has taken (R44, R47, R84, R92): which word they leave in a slot, and
how each operation moves them on. -/

namespace Sys2Proof.Machine

/-! ### The last push to a slot -/

/-- One more push is the last to its own slot, and leaves the last push to every other (R84). -/
theorem lastPushTo_concat (n i : Nat) (l : List Word) (w : Word) :
    lastPushTo n i (l ++ [w]) = if l.length % n = i then some w else lastPushTo n i l := by
  by_cases h : l.length % n = i <;>
    simp [lastPushTo, List.zipIdx_append, h]

/-- A push that fewer than `n` others follow is the last to its slot. -/
theorem lastPushTo_eq_getElem? {n k : Nat} {l : List Word} (hk : k < l.length)
    (hn : l.length ≤ k + n) : lastPushTo n (k % n) l = l[k]? := by
  induction l using List.reverseRecOn with
  | nil => cases hk
  | append_singleton l w ih =>
    rw [List.length_append, List.length_singleton] at hk hn
    rw [lastPushTo_concat]
    rcases Nat.lt_succ_iff_lt_or_eq.mp hk with hlt | rfl
    · have hne : l.length % n ≠ k % n := by
        intro he
        have hd : n ∣ l.length - k := (Nat.modEq_iff_dvd' hlt.le).mp he.symm
        have := Nat.le_of_dvd (by omega) hd
        omega
      rw [if_neg hne, ih hlt (by omega), List.getElem?_append_left hlt]
    · simp

/-- After a full round every slot has a push that fewer than `n` others follow. -/
theorem exists_lastRound {n j m : Nat} (hj : j < n) (hm : n ≤ m) :
    ∃ k, k < m ∧ m ≤ k + n ∧ k % n = j := by
  induction m, hm using Nat.le_induction with
  | base => exact ⟨j, hj, by omega, Nat.mod_eq_of_lt hj⟩
  | succ m _ ih =>
    obtain ⟨k, hk, hkn, hmod⟩ := ih
    by_cases hlast : m = k + n
    · exact ⟨k + n, by omega, by omega, by rw [Nat.add_mod_right, hmod]⟩
    · exact ⟨k, by omega, by omega, hmod⟩

/-- After a full round every slot has been pushed to. -/
theorem exists_lastPushTo {n j : Nat} {l : List Word} (hj : j < n) (hl : n ≤ l.length) :
    ∃ w, lastPushTo n j l = some w := by
  obtain ⟨k, hk, hkn, rfl⟩ := exists_lastRound hj hl
  exact ⟨l[k], by rw [lastPushTo_eq_getElem? hk hkn, List.getElem?_eq_getElem hk]⟩

/-! ### The pushes after each operation -/

theorem viewAfter_congr {n c d : Nat} {l : List Word} {f g : Nat → Option Word}
    (h : ViewAfter n l c f) (hc : d = c) (hg : ∀ i, i < n → g i = f i) : ViewAfter n l d g :=
  ⟨hc.trans h.1, fun i hi => (hg i hi).trans (h.2 i hi)⟩

/-- With no push pending the visible view is the committed state (R44). -/
theorem afterPushes_of_notPending {s : State} {l : List Word} (hp : s.pend = false)
    (h : ViewAfter s.cfg.n l s.wcur (committedWord s)) : AfterPushes s l where
  committed := h
  visible := by
    rw [visiblePushes, hp]
    exact viewAfter_congr h (by simp [visCur, hp])
      fun i _ => visWord_eq_committedWord (visCell_of_notPending hp i)
  pendingExists := by simp [hp]

/-- A state with the cursor at 0, nothing pending and no slot written has taken no push (R31). -/
theorem afterPushes_nil {s : State} (hcur : s.wcur = 0) (hpend : s.pend = false)
    (hwr : ∀ c ∈ s.store, c.wr = false) : AfterPushes s [] :=
  afterPushes_of_notPending hpend ⟨by simp [hcur], fun i _ => committedWord_unwritten hwr i⟩

theorem AfterPushes.of_sameStore {s t : State} {l : List Word} (ha : AfterPushes s l)
    (h : SameStore s t) : AfterPushes t l where
  committed := by
    rw [h.cfg]
    exact viewAfter_congr ha.committed h.wcur fun i _ => h.committedWord_eq i
  visible := by
    rw [h.cfg, visiblePushes, h.pend]
    exact viewAfter_congr ha.visible h.visCur_eq fun i _ => h.visWord_eq i
  pendingExists := by rw [h.pend]; exact ha.pendingExists

/-- PUBLISH shows the reader every push (R87). -/
theorem AfterPushes.publish {s : State} {l : List Word} (ha : AfterPushes s l) :
    AfterPushes (publish s) l :=
  afterPushes_of_notPending rfl ha.committed

/-- A PUSH adds its word as the last push of the committed state (R84, R85). -/
theorem viewAfter_push {s t : State} {l : List Word} {w : Word} (ha : AfterPushes s l)
    (h : push w s = .ok t) : ViewAfter t.cfg.n (l ++ [w]) t.wcur (committedWord t) := by
  have hword := committedWord_push h
  obtain ⟨_, _, _, _, rfl⟩ := push_writes h
  obtain ⟨hcur, hview⟩ := ha.committed
  refine ⟨by simp [hcur], fun i hi => ?_⟩
  rw [hword, lastPushTo_concat, hcur]
  by_cases hc : i = l.length % s.cfg.n
  · rw [if_pos hc, if_pos hc.symm]
  · rw [if_neg hc, if_neg (Ne.symm hc), hview i hi]

/-- After a PUSH under `LAG1` a reader sees the pushes before it, under `ATOMIC` all of them (R44,
R46). -/
theorem AfterPushes.push {s t : State} {l : List Word} {w : Word} (ha : AfterPushes s l)
    (hi : StateInv s) (h : push w s = .ok t) : AfterPushes t (l ++ [w]) := by
  have hcommitted := viewAfter_push ha h
  cases hv : s.cfg.vis with
  | lag1 =>
    have hcell := visCell_push_lag1 h hv
    obtain ⟨old, -, ⟨-, rfl⟩ | ⟨hv', -⟩⟩ := push_ok h
    · exact {
        committed := hcommitted
        visible := by
          simp only [visiblePushes, if_true, List.dropLast_concat]
          exact viewAfter_congr ha.committed rfl fun i _ => visWord_eq_committedWord (hcell i)
        pendingExists := by simp }
    · rw [hv] at hv'; cases hv'
  | atomic =>
    refine afterPushes_of_notPending ?_ hcommitted
    obtain ⟨old, -, ⟨hv', -⟩ | ⟨-, rfl⟩⟩ := push_ok h
    · rw [hv] at hv'; cases hv'
    · exact hi.atomicNeverPends hv

/-- A PARSE adds the buffer's payload to the pushes exactly if it completes a frame (R74). -/
theorem ParseCase.afterPushes {b : Byte} {s t : State} {st : ParseStatus} {l : List Word}
    (h : ParseCase b s st t) (hi : StateInv s) (ha : AfterPushes s l) :
    AfterPushes t (if st = .complete then l ++ [payloadWord s.buf] else l) := by
  split
  case isTrue hst =>
    subst hst
    obtain ⟨u, hu, rfl⟩ := h.completed
    exact (ha.push hi hu).of_sameStore (by constructor <;> rfl)
  case isFalse hst => exact ha.of_sameStore (h.sameStore hst)

end Sys2Proof.Machine
end

section
/-! PROOFS. The reset input and the state after reset (R15, R31, R112, R115). -/

namespace Sys2Proof.Machine

/-- Settles O14: the reset input writes neither the parameters nor what waits, and the choice of the
turn uses up that turn only. -/
theorem resetInputLeavesWhatWaits : Obligations.ResetInputLeavesWhatWaits := by
  intro s rest h
  exact ⟨_, step_reset h, rfl, rfl, rfl, rfl⟩

/-- Settles O15: every slot after the reset input is one the reset writes, and it is unwritten. -/
theorem resetInputEstablishesTheInvariant : Obligations.ResetInputEstablishesTheInvariant := by
  intro s t rest h hstep
  obtain rfl : resetInput _ = t := by simpa [step_reset h] using hstep
  exact ⟨stateInv_resetInput _, afterPushes_nil rfl rfl fun _ hc => mem_resetStore hc⟩

/-- Settles O17: `State.reset` is idle with its slots unwritten. -/
theorem resetStateHasTheInvariant : Obligations.ResetStateHasTheInvariant :=
  ⟨stateInv_of_idle rfl rfl memory_wf_reset rfl rfl Config.reference.n_pos,
    afterPushes_nil rfl rfl fun _ hc => wr_of_mem_reset_store hc⟩

end Sys2Proof.Machine
end

section
/-! PROOFS. What every step leaves unchanged (R15, R16, R27, R28, R78, R89). -/

namespace Sys2Proof.Machine

/-- No step writes the parameters (R15). -/
theorem step_cfg {s t : State} (h : step s = .next t) : t.cfg = s.cfg := by
  cases step_case h with
  | quiet same => exact same.cfg
  | publish turn => exact (fetch_sameFramer turn).cfg
  | reset turn => exact (fetch_sameFramer turn).cfg
  | parse turn _ _ parsed => exact parsed.surroundings.cfg.trans (fetch_sameFramer turn).cfg

/-- Settles O37: neither the choice of a turn nor any of the four things a step can do writes the
parameters. -/
theorem parametersAreFixed : Obligations.ParametersAreFixed := fun _ _ => step_cfg

/-- Settles O38: of the four things a step can do, the two others leave every element of the
parser. -/
theorem onlyParseMovesTheParser : Obligations.OnlyParseMovesTheParser := by
  intro s t h
  cases step_case h with
  | quiet same => exact .inl ⟨same.ps, same.buf, same.cnt⟩
  | publish turn =>
    have same := fetch_sameFramer turn
    exact .inl ⟨same.ps, same.buf, same.cnt⟩
  | reset turn => exact .inr (.inl ⟨_, turn⟩)
  | parse turn port decoded => exact .inr (.inr ⟨_, _, _, turn, port, decoded⟩)

/-- A push was pending where PUBLISH is the next step (R87). -/
theorem pend_of_fetch_publish {s u : State} (h : fetch s = (.publish, u)) : u.pend = true := by
  rw [(fetch_sameFramer h).pend]
  have he := fetch_publish_enabled h
  simp only [publishEnabled, Bool.and_eq_true] at he
  exact he.1

/-- Settles O39: only a transition that completes a frame pushes, and PUBLISH, enabled while a push
is pending, writes the pending mark alone. -/
theorem onlyCompletePushes : Obligations.OnlyCompletePushes := by
  intro s t h
  cases step_case h with
  | quiet same =>
    exact .inr (.inr ⟨same.store, same.wcur, same.pidx, same.pold, same.poldw, .inl same.pend⟩)
  | @publish u turn =>
    have same := fetch_sameFramer turn
    have hpend : { publish u with pend := true } = u := by
      rw [← pend_of_fetch_publish turn]; rfl
    exact .inr (.inr ⟨same.store, same.wcur, same.pidx, same.pold, same.poldw,
      .inr ⟨rfl, by rw [hpend]; exact turn⟩⟩)
  | reset turn => exact .inl ⟨_, turn⟩
  | @parse _ _ _ _ st turn _ _ parsed =>
    by_cases hst : st = .complete
    · exact .inr (.inl ((completed_respond_iff ..).mpr hst))
    · have same := (fetch_sameFramer turn).toSameStore.trans (parsed.sameStore hst)
      exact .inr (.inr ⟨same.store, same.wcur, same.pidx, same.pold, same.poldw, .inl same.pend⟩)

end Sys2Proof.Machine
end

section
/-! PROOFS. PARSE as a request: its status, its count of validated bytes, its frame and its two
stops (R19, R38, R68 to R74, log entry 9). -/

namespace Sys2Proof.Machine

/-! ### Answering -/

/-- Where the cursor names a slot and the fill count is right, the parser answers every byte
(R69). -/
theorem parseByte_total {s : State} (hi : StateInv s) (b : Byte) :
    ∃ st t, parseByte b s = .ok (st, t) := by
  have hfill := hi.fill
  unfold parseByte
  cases hps : s.ps with
  | waitHead1 => simp only [stepWaitHead1]; split <;> exact ⟨_, _, rfl⟩
  | waitHead2 => simp only [stepWaitHead2]; split <;> exact ⟨_, _, rfl⟩
  | receiveData =>
    have hc : s.cnt.val < 4 := by simpa [hps, fillOk] using hfill
    simp only [stepReceiveData, dif_pos hc]
    exact ⟨_, _, rfl⟩
  | waitTail1 => simp only [stepWaitTail1]; split <;> exact ⟨_, _, rfl⟩
  | waitTail2 =>
    obtain ⟨u, hu⟩ : ∃ u, push (payloadWord s.buf) s = .ok u := by
      obtain ⟨old, hold⟩ := hi.slotAtCursor
      cases hv : s.cfg.vis with
      | lag1 => exact ⟨_, push_lag1 _ hv hold⟩
      | atomic => exact ⟨_, push_atomic _ hv hold⟩
    simp only [stepWaitTail2, hu]
    split <;> exact ⟨_, _, rfl⟩

/-- A PARSE performed on port I is a transition of the parser and its answer (R68). -/
theorem exec_parse_portI {b : Byte} {s t : State} (hp : s.port = .portI)
    (h : exec (.parse b) s = .next t) :
    ∃ st u, ParseCase b s st u ∧ t = respond .ok (psCode st) 0 u := by
  rcases execParse_next h with ⟨hc, -⟩ | ⟨-, hcase⟩
  · rw [hp] at hc; cases hc
  · exact hcase

/-! ### Bytes validated (R19) -/

/-- Seven validated bytes are the state `WaitTail2`. -/
theorem validated_eq_seven_iff (s : State) : validated s = 7 ↔ s.ps = .waitTail2 := by
  cases hps : s.ps with
  | receiveData => simp only [validated, hps, reduceCtorEq, iff_false]; omega
  | _ => simp [validated, hps]

/-- Under R20 the count of validated bytes determines the parser state. -/
theorem validated_determines_ps {s : State} (hf : fillOk s.ps s.cnt = true) :
    (validated s = 0 ↔ s.ps = .waitHead1) ∧ (validated s = 1 ↔ s.ps = .waitHead2) ∧
    (2 ≤ validated s ∧ validated s ≤ 5 ↔ s.ps = .receiveData) ∧
    (validated s = 6 ↔ s.ps = .waitTail1) ∧ (validated s = 7 ↔ s.ps = .waitTail2) := by
  cases hps : s.ps with
  | receiveData =>
    have hc : s.cnt.val < 4 := by simpa [hps, fillOk] using hf
    simp only [validated, hps, reduceCtorEq, iff_false, iff_true]
    omega
  | _ => simp [validated, hps]

/-- A transition validates the byte if it fits, the eighth ending the count, and else starts
over. -/
theorem ParseCase.validated {b : Byte} {s t : State} {st : ParseStatus} (h : ParseCase b s st t)
    (hf : Machine.fillOk s.ps s.cnt = true) :
    validated t = if fits b s then (validated s + 1) % 8 else 0 := by
  cases h with
  | headerOne hps => by_cases hb : b = s.cfg.h1 <;> simp [Machine.validated, fits, hps, hb]
  | headerTwo hps =>
    have hc : s.cnt = 0 := by simpa [hps, Machine.fillOk] using hf
    by_cases hb : b = s.cfg.h2 <;> simp [Machine.validated, fits, hps, hb, hc]
  | data hps hc =>
    by_cases h4 : s.cnt.val + 1 = 4
    · simp [Machine.validated, fits, hps, h4]; omega
    · simp [Machine.validated, fits, hps, h4]; omega
  | trailerOne hps hb => simp [Machine.validated, fits, hps, hb]
  | mismatch hps =>
    rcases hps with ⟨hps, hb⟩ | ⟨hps, hb⟩ <;> simp [Machine.validated, fits, hps, hb]
  | complete hps hb => simp [Machine.validated, fits, hps, hb]

/-- Settles O26: a transition moves the count as R19 infers, and the state it leaves has the fill
count of R20, under which the count determines the parser state. -/
theorem parserStateCountsValidatedBytes : Obligations.ParserStateCountsValidatedBytes := by
  intro s t b hi hp h
  obtain ⟨st, u, hcase, rfl⟩ := exec_parse_portI hp h
  exact ⟨hcase.validated hi.fill, validated_determines_ps (hcase.fillOk hi.fill)⟩

/-! ### The status (R69) -/

theorem ParseCase.complete_iff {b : Byte} {s t : State} {st : ParseStatus}
    (h : ParseCase b s st t) : st = .complete ↔ s.ps = .waitTail2 ∧ b = s.cfg.t2 := by
  cases h with
  | mismatch hps => rcases hps with ⟨hps, hb⟩ | ⟨hps, hb⟩ <;> simp [hps, hb]
  | complete hps hb => simp [hps, hb]
  | _ hps => simp [hps]

theorem ParseCase.error_iff {b : Byte} {s t : State} {st : ParseStatus} (h : ParseCase b s st t) :
    st = .error ↔ (s.ps = .waitTail1 ∧ b ≠ s.cfg.t1) ∨ (s.ps = .waitTail2 ∧ b ≠ s.cfg.t2) := by
  cases h with
  | mismatch hps => simpa using hps
  | trailerOne hps hb => simp [hps, hb]
  | complete hps hb => simp [hps, hb]
  | _ hps => simp [hps]

/-- A completed frame's payload is in the committed state, in the slot the cursor named (R74,
R85). -/
theorem ParseCase.committedWord_complete {b : Byte} {s t : State}
    (h : ParseCase b s .complete t) : committedWord t s.wcur = some (payloadWord s.buf) := by
  obtain ⟨u, hu, rfl⟩ := h.completed
  exact (committedWord_push hu s.wcur).trans (if_pos rfl)

/-- Settles O25: the invariant makes the parser answer, and the case of its answer says which status
it is and what it pushed. -/
theorem parseStatusContract : Obligations.ParseStatusContract := by
  intro s b hi hp
  obtain ⟨st, u, hu⟩ := parseByte_total hi b
  have hcase := parseByte_ok hu
  refine ⟨_, st, execParse_of_ok hp hu, ?_, ?_, hcase.error_iff, ?_⟩
  · rw [Responded, respond_resp, hcase.surroundings.port, hp]
  · rw [validated_eq_seven_iff]; exact hcase.complete_iff
  · rintro rfl; exact hcase.committedWord_complete

/-! ### The frame (R38) -/

/-- A transition writes no buffer byte but the one it fills (R72). -/
theorem ParseCase.buf_other {b : Byte} {s t : State} {st : ParseStatus} (h : ParseCase b s st t)
    {k : Nat} (hk : k < 4) (hne : s.ps ≠ .receiveData ∨ k ≠ s.cnt.val) : t.buf[k] = s.buf[k] := by
  cases h with
  | data hps hc =>
    have hk' : k ≠ s.cnt.val := hne.resolve_left (not_not_intro hps)
    exact Vector.getElem_set_ne hc hk hk'.symm
  | complete _ _ u hp =>
    obtain ⟨_, _, _, _, rfl⟩ := push_writes hp
    rfl
  | _ => rfl

/-- A transition writes no slot but the one at the cursor (R28, R85). -/
theorem ParseCase.store_other {b : Byte} {s t : State} {st : ParseStatus} (h : ParseCase b s st t)
    {i : Nat} (hi : i ≠ s.wcur) : t.store[i]? = s.store[i]? := by
  cases h with
  | complete _ _ u hp =>
    obtain ⟨_, _, _, _, rfl⟩ := push_writes hp
    exact List.getElem?_set_ne (Ne.symm hi)
  | _ => rfl

/-- Settles O28: a rejected PARSE writes the response alone, and an accepted one what its transition
writes, which without a `Complete` is no part of the store. -/
theorem parseFrame : Obligations.ParseFrame := by
  intro s t b h
  rcases execParse_next h with ⟨-, rfl⟩ | ⟨-, st, u, hcase, rfl⟩
  · exact ⟨rfl, rfl, rfl, rfl, rfl, rfl, fun _ _ _ => rfl, fun _ _ => rfl,
      fun _ => ⟨rfl, rfl, rfl, rfl, rfl, rfl⟩⟩
  · obtain ⟨hcfg, hreqI, hreqC, hsched, hport, hdraws⟩ := hcase.surroundings
    refine ⟨hcfg, hreqI, hreqC, hsched, hport, hdraws, fun _ => hcase.buf_other,
      fun _ => hcase.store_other, fun hn => ?_⟩
    have same := hcase.sameStore fun hst => hn ((completed_respond_iff ..).mpr hst)
    exact ⟨same.store, same.wcur, same.pend, same.pidx, same.pold, same.poldw⟩

/-! ### The two stops (log entry 9) -/

theorem execParse_of_error {b : Byte} {s : State} {f : Fault} (hp : s.port = .portI)
    (h : parseByte b s = .error f) : execParse b s = .fault f := by
  simp [execParse, hp, h]

theorem parseByte_fillCountFull {s : State} (b : Byte) (hps : s.ps = .receiveData)
    (hc : s.cnt = 4) : parseByte b s = .error .fillCountFull := by
  simp [parseByte, stepReceiveData, hps, hc]

theorem parseByte_slotAbsent {s : State} {b : Byte} (hps : s.ps = .waitTail2) (hb : b = s.cfg.t2)
    (h : s.store[s.wcur]? = none) : parseByte b s = .error .slotAbsent := by
  simp [parseByte, stepWaitTail2, hps, hb, push_absent _ h]

theorem memRead_absent {s : State} {i : Nat} (h : visCell s i = none) :
    memRead i s = .error .slotAbsent := by
  simp [memRead, h]

theorem execRead_of_error {s : State} {i : Byte} {f : Fault} (hi : i.toNat < s.cfg.n)
    (h : memRead i.toNat s = .error f) : execRead i s = .fault f := by
  simp [execRead, Nat.not_le.mpr hi, h]

/-- Settles O24: the parser stops on a full buffer and on a push to an absent slot, the store on a
read of one, and the requests pass the stop on. -/
theorem stopsOutsideTheInvariant : Obligations.StopsOutsideTheInvariant := by
  refine ⟨fun s b hp hps hc => ?_, fun s b hp hps hb habsent => ?_, fun s i hi hpend habsent => ?_⟩
  · exact execParse_of_error hp (parseByte_fillCountFull b hps hc)
  · exact execParse_of_error hp (parseByte_slotAbsent hps hb habsent)
  · exact execRead_of_error hi (memRead_absent ((visCell_of_notPending hpend _).trans habsent))

end Sys2Proof.Machine
end

section
/-! PROOFS. What the requests other than PARSE read of the parser (R30), and the parser's suggested
codes (R18). -/

namespace Sys2Proof.Machine

/-- The state with another parser state, buffer and fill count. -/
def withParser (ps : PState) (buf : Vector Byte 4) (cnt : Fin 5) (s : State) : State :=
  { s with ps := ps, buf := buf, cnt := cnt }

/-- The visible view does not read the parser (R44). -/
theorem visCell_withParser (ps : PState) (buf : Vector Byte 4) (cnt : Fin 5) (s : State) (i : Nat) :
    visCell (withParser ps buf cnt s) i = visCell s i := rfl

theorem memRead_withParser (ps : PState) (buf : Vector Byte 4) (cnt : Fin 5) {s t : State} {i : Nat}
    {v : Word} (h : memRead i s = .ok (v, t)) :
    memRead i (withParser ps buf cnt s) = .ok (v, withParser ps buf cnt t) := by
  cases hc : visCell s i with
  | none => rw [memRead_absent hc] at h; cases h
  | some c =>
    have hc' := (visCell_withParser ps buf cnt s i).trans hc
    cases hw : c.wr with
    | true =>
      obtain ⟨rfl, rfl⟩ : c.word = v ∧ s = t := by simpa [memRead, hc, hw] using h
      simp [memRead, hc', hw]
    | false =>
      rw [memRead_unwritten hc hw] at h
      cases h
      exact memRead_unwritten hc' hw

theorem execRead_withParser (ps : PState) (buf : Vector Byte 4) (cnt : Fin 5) {s t : State}
    {i : Byte} (h : execRead i s = .next t) :
    execRead i (withParser ps buf cnt s) = .next (withParser ps buf cnt t) := by
  rcases execRead_next h with ⟨hi, rfl⟩ | ⟨hi, v, u, hm, rfl⟩
  · exact if_pos hi
  · have hm' := memRead_withParser ps buf cnt hm
    have hi' : ¬ (withParser ps buf cnt s).cfg.n ≤ i.toNat := Nat.not_le.mpr hi
    simp only [execRead, if_neg hi', hm']
    rfl

/-- Settles O33: ENCODE reads the parameters, CURSOR and READ the visible view, and none the
parser. -/
theorem parserStateIsHidden : Obligations.ParserStateIsHidden := by
  intro s u i ps buf cnt hi h
  cases i with
  | parse b => exact absurd rfl (hi b)
  | encode w => cases h; rfl
  | read k => exact execRead_withParser ps buf cnt h
  | cursor => cases h; rfl

theorem pstateOfCode_pstateCode (ps : PState) : pstateOfCode (pstateCode ps) = some ps := by
  cases ps <;> rfl

/-- A code that names a parser state is that state's code (R18). -/
theorem eq_pstateCode {c : BitVec 3} {ps : PState} (h : pstateOfCode c = some ps) :
    c = pstateCode ps := by
  unfold pstateOfCode at h
  split_ifs at h <;> cases h <;> assumption

/-- Settles O49: the two tables are inverse to each other. -/
theorem parserStateCodes : Obligations.ParserStateCodes := fun _ ps =>
  ⟨eq_pstateCode, fun h => h ▸ pstateOfCode_pstateCode ps⟩

end Sys2Proof.Machine
end

section
/-! PROOFS. Runs without a reset and what READ and CURSOR answer after `N+3` pushes (R47, R84,
R92). -/

namespace Sys2Proof.Machine

/-! ### The pushes of a run -/

/-- A step that is not a reset adds the payload of the frame it completes, if it completes one, to
the pushes, and nothing else (R47). -/
theorem step_afterPushes {s t : State} {l : List Word} (hi : StateInv s) (ha : AfterPushes s l)
    (h : step s = .next t) (hr : ∀ v, fetch s ≠ (.reset, v)) :
    (Completed t → AfterPushes t (l ++ [payloadWord s.buf])) ∧
      (¬ Completed t → AfterPushes t l) := by
  cases step_case h with
  | quiet same noFrame =>
    exact ⟨fun hc => absurd hc noFrame, fun _ => ha.of_sameStore same.toSameStore⟩
  | @publish u turn =>
    have hn : ¬ Completed (publish u) :=
      not_completed_of_noResponse ((publish_resp u).trans (fetch_resp turn))
    exact ⟨fun hc => absurd hc hn,
      fun _ => (ha.of_sameStore (fetch_sameFramer turn).toSameStore).publish⟩
  | reset turn => exact absurd turn (hr _)
  | @parse _ u v _ st turn _ _ parsed =>
    have same := fetch_sameFramer turn
    have hv := parsed.afterPushes (hi.of_sameFramer same) (ha.of_sameStore same.toSameStore)
    have ht := hv.of_sameStore (sameFramer_respond .ok (psCode st) 0 v).toSameStore
    rw [same.buf] at ht
    rw [completed_respond_iff]
    exact ⟨fun hst => by rwa [if_pos hst] at ht, fun hst => by rwa [if_neg hst] at ht⟩

/-- A run without a reset keeps the parameters and the invariant, and adds the payloads of its
frames to the pushes in order (R47). -/
theorem pushRun_afterPushes {s t : State} {l ws : List Word} (hi : StateInv s)
    (ha : AfterPushes s l) (h : PushRun s ws t) :
    t.cfg = s.cfg ∧ StateInv t ∧ AfterPushes t (l ++ ws) := by
  induction h with
  | here => exact ⟨rfl, hi, by simpa using ha⟩
  | quiet _ noReset next noFrame ih =>
    obtain ⟨hcfg, hinv, hpushes⟩ := ih
    exact ⟨(step_cfg next).trans hcfg, everyStepKeepsTheInvariant _ _ hinv next,
      (step_afterPushes hinv hpushes next noReset).2 noFrame⟩
  | complete _ noReset next frame ih =>
    obtain ⟨hcfg, hinv, hpushes⟩ := ih
    refine ⟨(step_cfg next).trans hcfg, everyStepKeepsTheInvariant _ _ hinv next, ?_⟩
    rw [← List.append_assoc]
    exact (step_afterPushes hinv hpushes next noReset).1 frame

/-! ### What the requests answer -/

theorem answers_cursor (s : State) : Answers .cursor s (BitVec.ofNat 64 (visCur s)) :=
  ⟨_, rfl, rfl⟩

/-- READ of a slot whose visible content is written answers it (R91). -/
theorem answers_read {s : State} {j : Nat} {w : Word} (hj : j < s.cfg.n)
    (h : visWord s j = some w) : Answers (.read (BitVec.ofNat 8 j)) s (w.setWidth 64) := by
  have hj' : (BitVec.ofNat 8 j).toNat = j :=
    (BitVec.toNat_ofNat j 8).trans (Nat.mod_eq_of_lt (hj.trans_le s.cfg.n_le))
  refine ⟨respond .ok noStatus (w.setWidth 64) s, ?_, rfl⟩
  simp only [exec, execRead, hj', if_neg (Nat.not_le.mpr hj), memRead_written h]

/-- READ in a state of the pushes `l`, all of them visible, answers the last push to its slot
(R92). -/
theorem answers_read_lastPush {s : State} {l : List Word} {j : Nat} {w : Word}
    (ha : AfterPushes s l) (hp : s.pend = false) (hj : j < s.cfg.n)
    (hw : lastPushTo s.cfg.n j l = some w) :
    Answers (.read (BitVec.ofNat 8 j)) s (w.setWidth 64) := by
  have hview := ha.visible.2 j hj
  rw [visiblePushes, hp] at hview
  exact answers_read hj (hview.trans hw)

/-- READ of the slot of push `k`, where fewer than `N` pushes follow it, answers that push (R92). -/
theorem answers_read_push {s : State} {l : List Word} {k : Nat} (ha : AfterPushes s l)
    (hp : s.pend = false) (hk : k < l.length) (hn : l.length ≤ k + s.cfg.n) :
    ∃ w, l[k]? = some w ∧ Answers (.read (BitVec.ofNat 8 (k % s.cfg.n))) s (w.setWidth 64) := by
  have hw : l[k]? = some l[k] := List.getElem?_eq_getElem hk
  exact ⟨l[k], hw, answers_read_lastPush ha hp (Nat.mod_lt _ s.cfg.n_pos)
    ((lastPushTo_eq_getElem? hk hn).trans hw)⟩

/-- CURSOR in a state of the pushes `l`, all of them visible, answers their number modulo `N`
(R92). -/
theorem answers_cursor_pushes {s : State} {l : List Word} (ha : AfterPushes s l)
    (hp : s.pend = false) : Answers .cursor s (BitVec.ofNat 64 (l.length % s.cfg.n)) := by
  have hcur := ha.visible.1
  rw [visiblePushes, hp] at hcur
  have hans := answers_cursor s
  rwa [hcur] at hans

/-- Settles O42: the run leaves a state of the pushes `l ++ ws`, all visible; slot `j` shows push
`N+j` for `j` below 3 and push `j` for the others, each followed by fewer than `N` more. -/
theorem wraparoundKeepsTheLastRound : Obligations.WraparoundKeepsTheLastRound := by
  intro s t l ws hi ha hrun hp hlen
  obtain ⟨hcfg, -, hpushes⟩ := pushRun_afterPushes hi ha hrun
  rw [← hcfg] at hlen ⊢
  refine ⟨?_, fun j hj => ?_, fun _ => ⟨fun j hj => ?_, fun j hj hjn => ?_⟩⟩
  · rw [← hlen]; exact answers_cursor_pushes hpushes hp
  · obtain ⟨w, hw⟩ := exists_lastPushTo (l := l ++ ws) hj (by omega)
    exact ⟨w, hw, answers_read_lastPush hpushes hp hj hw⟩
  · have hpush := answers_read_push (k := t.cfg.n + j) hpushes hp (by omega) (by omega)
    rwa [Nat.add_mod_left, Nat.mod_eq_of_lt (by omega)] at hpush
  · have hpush := answers_read_push (k := j) hpushes hp (by omega) (by omega)
    rwa [Nat.mod_eq_of_lt hjn] at hpush

end Sys2Proof.Machine
end

section
/-! PROOFS. What a reader sees of the pushes, from one step to the next (R44, R47). -/

namespace Sys2Proof.Machine

/-- What a reader does not see yet is at most the one pending push, the last (R25). -/
theorem exists_unseen {s : State} {l : List Word} (hne : s.pend = true → l ≠ []) :
    ∃ seen : List Word, seen.length ≤ 1 ∧ l = visiblePushes s l ++ seen := by
  cases hp : s.pend with
  | false => exact ⟨[], by simp, by simp [visiblePushes, hp]⟩
  | true =>
    refine ⟨[l.getLast (hne hp)], by simp, ?_⟩
    rw [visiblePushes, hp, if_pos rfl, List.dropLast_append_getLast]

theorem visiblePushes_of_pend_eq {s t : State} (h : t.pend = s.pend) (l : List Word) :
    visiblePushes t l = visiblePushes s l := by
  simp only [visiblePushes, h]

/-- After a PUSH a push is pending under `LAG1`, and none under `ATOMIC` (R46, R85). -/
theorem pend_of_push {s t : State} {w : Word} (hi : StateInv s) (h : push w s = .ok t) :
    t.pend = true ∨ t.pend = false ∧ s.pend = false := by
  obtain ⟨old, -, ⟨-, rfl⟩ | ⟨hv, rfl⟩⟩ := push_ok h
  · exact .inl rfl
  · exact .inr ⟨hi.atomicNeverPends hv, hi.atomicNeverPends hv⟩

/-- A PUSH shows the reader what was pending under `LAG1`, and itself under `ATOMIC` (R85). -/
theorem AfterPushes.push_visiblePushes {s t : State} {l : List Word} {w : Word}
    (ha : AfterPushes s l) (hi : StateInv s) (h : Machine.push w s = .ok t) :
    ∃ seen : List Word, seen.length ≤ 1 ∧
      visiblePushes t (l ++ [w]) = visiblePushes s l ++ seen := by
  rcases pend_of_push hi h with ht | ⟨ht, hs⟩
  · obtain ⟨seen, hlen, hl⟩ := exists_unseen ha.pendingExists
    exact ⟨seen, hlen, by rw [← hl]; simp [visiblePushes, ht]⟩
  · exact ⟨[w], le_rfl, by simp [visiblePushes, ht, hs]⟩

/-- A step that is not a reset shows the reader at most one more push, the next in order (R44). -/
theorem step_visiblePushes {s t : State} {l : List Word} (hi : StateInv s) (ha : AfterPushes s l)
    (h : step s = .next t) (hr : ∀ v, fetch s ≠ (.reset, v)) :
    ∃ seen : List Word, seen.length ≤ 1 ∧
      (Completed t → visiblePushes t (l ++ [payloadWord s.buf]) = visiblePushes s l ++ seen) ∧
      (¬ Completed t → visiblePushes t l = visiblePushes s l ++ seen) := by
  cases step_case h with
  | quiet same noFrame =>
    exact ⟨[], by simp, fun hc => absurd hc noFrame,
      fun _ => by simpa using visiblePushes_of_pend_eq same.pend l⟩
  | @publish u turn =>
    have hn : ¬ Completed (publish u) :=
      not_completed_of_noResponse ((publish_resp u).trans (fetch_resp turn))
    obtain ⟨seen, hlen, hl⟩ := exists_unseen ha.pendingExists
    exact ⟨seen, hlen, fun hc => absurd hc hn, fun _ => hl⟩
  | reset turn => exact absurd turn (hr _)
  | @parse _ u v _ st turn _ _ parsed =>
    have same := fetch_sameFramer turn
    rw [completed_respond_iff]
    by_cases hst : st = .complete
    · subst hst
      obtain ⟨x, hx, rfl⟩ := parsed.completed
      obtain ⟨seen, hlen, hl⟩ :=
        (ha.of_sameStore same.toSameStore).push_visiblePushes (hi.of_sameFramer same) hx
      rw [same.buf, visiblePushes_of_pend_eq same.pend] at hl
      exact ⟨seen, hlen, fun _ => hl, fun hn => absurd rfl hn⟩
    · have hpend : v.pend = s.pend := (parsed.sameStore hst).pend.trans same.pend
      exact ⟨[], by simp, fun hc => absurd hc hst,
        fun _ => by simpa using visiblePushes_of_pend_eq (t := respond _ _ _ v) hpend l⟩

/-- Settles O41: a reset leaves the state of no pushes, and every other step adds the payload it
completes and shows the reader at most the next push. -/
theorem everyStepExtendsThePushes : Obligations.EveryStepExtendsThePushes := by
  intro s t l hi ha h
  by_cases hr : ∃ u, fetch s = (.reset, u)
  · obtain ⟨u, hu⟩ := hr
    obtain rfl : resetInput u = t := by simpa [step, hu] using h
    exact ⟨[], afterPushes_nil rfl rfl fun _ hc => mem_resetStore hc, .inl ⟨rfl, u, hu⟩⟩
  · obtain ⟨hframe, hquiet⟩ := step_afterPushes hi ha h (not_exists.mp hr)
    obtain ⟨seen, hlen, hvframe, hvquiet⟩ := step_visiblePushes hi ha h (not_exists.mp hr)
    by_cases hc : Completed t
    · exact ⟨_, hframe hc, .inr ⟨.inl ⟨hc, rfl⟩, seen, hlen, hvframe hc⟩⟩
    · exact ⟨_, hquiet hc, .inr ⟨.inr ⟨hc, rfl⟩, seen, hlen, hvquiet hc⟩⟩

end Sys2Proof.Machine
end

section
/-! PROOFS. The bytes of a payload word and of a frame word (R33, R35, R36), and the words of
`feed` (R58, R66). -/

namespace Sys2Proof.Machine

/-! ### Bytes of a little-endian packing -/

theorem extractLsb'_byte_zero (b : Byte) : b.extractLsb' (8 * 0) 8 = b :=
  BitVec.extractLsb'_eq_self

/-- The low byte of a packing is the byte appended last. -/
theorem extractLsb'_append_byte_zero {n : Nat} (a : BitVec n) (b : Byte) :
    (a ++ b).extractLsb' (8 * 0) 8 = b := by
  ext i hi
  simp [BitVec.getLsbD_append, hi]

/-- Byte `k+1` of a packing is byte `k` of the packing without its low byte. -/
theorem extractLsb'_append_byte_succ {n : Nat} (a : BitVec n) (b : Byte) (k : Nat) :
    (a ++ b).extractLsb' (8 * (k + 1)) 8 = a.extractLsb' (8 * k) 8 := by
  ext i hi
  simp only [BitVec.getElem_extractLsb', BitVec.getLsbD_append]
  rw [if_neg (by omega)]
  congr 1
  omega

/-! ### Payload words -/

theorem payloadByte_payloadWord (p : Vector Byte 4) {k : Nat} (h : k < 4) :
    payloadByte (payloadWord p) k = p[k] := by
  unfold payloadByte payloadWord
  interval_cases k <;>
    simp only [extractLsb'_byte_zero, extractLsb'_append_byte_zero, extractLsb'_append_byte_succ]

/-- Every word is the packing of its bytes (R35). -/
theorem payloadBytes_append (w : Word) :
    payloadByte w 3 ++ payloadByte w 2 ++ payloadByte w 1 ++ payloadByte w 0 = w := by
  unfold payloadByte
  rw [BitVec.extractLsb'_append_extractLsb'_eq_extractLsb' (by rfl),
    BitVec.extractLsb'_append_extractLsb'_eq_extractLsb' (by rfl),
    BitVec.extractLsb'_append_extractLsb'_eq_extractLsb' (by rfl)]
  exact BitVec.extractLsb'_eq_self

/-- A buffer that holds the bytes of a word packs to that word (R35). -/
theorem payloadWord_of_bytes {p : Vector Byte 4} {w : Word}
    (h : ∀ k (hk : k < 4), p[k] = payloadByte w k) : payloadWord p = w := by
  rw [payloadWord, h 3, h 2, h 1, h 0, payloadBytes_append]

/-- Settles O6: each byte is found by taking the packing apart from its low end, and the bytes of a
word are adjacent fields that cover it. -/
theorem payloadWordPacksItsBytes : Obligations.PayloadWordPacksItsBytes :=
  ⟨fun p _ => payloadByte_payloadWord p, fun w => (payloadBytes_append w).symm⟩

/-! ### Frame words -/

/-- Byte `k` of the frame word is the byte at frame offset `k` (R36). -/
theorem frameByte_frameWord (c : Config) (w : Word) {k : Nat} (h : k < 8) :
    some (frameByte (frameWord c w) k) = (frameBytes c w)[k]? := by
  unfold frameByte frameWord frameBytes
  interval_cases k <;>
    simp only [extractLsb'_byte_zero, extractLsb'_append_byte_zero,
      extractLsb'_append_byte_succ] <;>
    rfl

/-- Settles O7: the response's data is the frame word, whose bytes are the frame's. -/
theorem encodeReturnsTheFrameByOffset : Obligations.EncodeReturnsTheFrameByOffset := by
  intro s w k hk
  refine ⟨_, _, rfl, respond_resp .., ?_⟩
  rw [respData_responseWord]
  exact frameByte_frameWord s.cfg w hk

/-! ### The words of `feed` -/

/-- The word of a PARSE, its fixed bits above its byte (R57, R58). -/
theorem encode_parse (b : Byte) : encode (.parse b) = 0x10000000#32 ++ b := by
  have hassoc : encode (.parse b) = (0x1#4 ++ 0#4 ++ 0#24 : BitVec 32) ++ b :=
    (BitVec.append_assoc (x₁ := 0x1#4 ++ 0#4) (x₂ := 0#24) (x₃ := b)).symm
  rw [hassoc]
  rfl

/-- Settles O8: the eight bytes of the frame, each in the word of its PARSE. -/
theorem feedIsEightParseRequests : Obligations.FeedIsEightParseRequests := by
  refine ⟨fun c w => ?_, by decide⟩
  simp only [lineEvents, feedWords, frameBytes, List.map_cons, List.map_nil, encode_parse]
  rfl

end Sys2Proof.Machine
end

section
/-! PROOFS. What one step does with the turns and the waiting requests (R40, R43, R45, R53,
R108). -/

namespace Sys2Proof.Machine

/-! ### The choice of a turn -/

theorem fetch_of_port {s : State} {p : Port} {rest : List Agent} (h : s.sched = .port p :: rest) :
    fetch s = takeRequest p { s with sched := rest, resp := none } := by
  simp [fetch, h, takeTurn]

theorem fetch_of_noTurn {s : State} (h : s.sched = []) :
    fetch s = takeTurn (defaultAgent s) { s with resp := none } := by
  simp [fetch, h]

theorem publishEnabled_iff (s : State) :
    publishEnabled s = true ↔ s.pend = true ∧ s.cfg.vis = .lag1 := by
  simp [publishEnabled]

theorem not_publishEnabled {s : State} (h : s.pend = false ∨ s.cfg.vis = .atomic) :
    publishEnabled s = false := by
  rcases h with h | h <;> simp [publishEnabled, h]

/-- The publisher's turn by default (log entry 2). -/
theorem fetch_default_publish {s : State} (h : s.sched = []) (hp : publishEnabled s = true) :
    fetch s = (.publish, { s with resp := none }) := by
  have hp' : publishEnabled { s with resp := none } = true := hp
  simp [fetch_of_noTurn h, defaultAgent, hp, takeTurn, hp']

/-- A port's turn by default: port I's, or port C's if nothing waits on port I (log entry 2). -/
theorem fetch_default_port {s : State} (h : s.sched = []) (hp : publishEnabled s = false) :
    fetch s = takeRequest (if s.reqI = [] then .portC else .portI) { s with resp := none } := by
  rw [fetch_of_noTurn h, defaultAgent, hp]
  by_cases hI : s.reqI = [] <;> simp [hI, takeTurn]

/-! ### The step of a chosen turn -/

theorem step_of_fetch_request {s u : State} {w : ReqWord} {i : Instr}
    (hf : fetch s = (.request w, u)) (hd : decode u.cfg.n u.port w = .ok i) :
    step s = exec i u := by
  simp [step, hf, hd]

theorem step_of_fetch_rejected {s u : State} {w : ReqWord} {c : Reject}
    (hf : fetch s = (.request w, u)) (hd : decode u.cfg.n u.port w = .error c) :
    step s = .next (reject c u) := by
  simp [step, hf, hd]

theorem step_of_fetch_publish {s u : State} (hf : fetch s = (.publish, u)) :
    step s = .next (publish u) := by
  simp [step, hf]

theorem step_of_fetch_reset {s u : State} (hf : fetch s = (.reset, u)) :
    step s = .next (resetInput u) := by
  simp [step, hf]

theorem step_of_fetch_idle {s u : State} (hf : fetch s = (.idle, u)) : step s = .next u := by
  simp [step, hf]

@[simp] theorem setQueue_cfg (p : Port) (q : List ReqWord) (s : State) :
    (setQueue p q s).cfg = s.cfg := by
  cases p <;> rfl

/-- A port's turn performs its oldest request (R43, R52). -/
theorem step_of_port_cons {s v : State} {p : Port} {w : ReqWord} {ws : List ReqWord} {i : Instr}
    (hf : fetch s = takeRequest p v) (hq : queue p v = w :: ws) (hd : decode v.cfg.n p w = .ok i) :
    step s = exec i { setQueue p ws v with port := p } := by
  have hf' : fetch s = (.request w, { setQueue p ws v with port := p }) := by
    simp [hf, takeRequest, hq]
  exact step_of_fetch_request hf' (by simpa using hd)

/-- A port's turn with nothing waiting does nothing (log entry 13). -/
theorem step_of_port_nil {s v : State} {p : Port} (hf : fetch s = takeRequest p v)
    (hq : queue p v = []) : step s = .next v :=
  step_of_fetch_idle (by simp [hf, takeRequest, hq])

/-- Settles O9: the turn of a port takes the oldest word from its queue. -/
theorem stepPerformsTheDecodedRequest : Obligations.StepPerformsTheDecodedRequest :=
  fun _ _ _ _ _ => ⟨fun hs hq => step_of_port_cons (fetch_of_port hs) hq,
    fun hs hq => step_of_port_cons (fetch_of_port hs) hq⟩

/-- Settles O11: the default turn is the publisher's while PUBLISH is enabled, else a port's, and a
port's turn performs its oldest request if there is one. -/
theorem stepWithoutAChosenRequest : Obligations.StepWithoutAChosenRequest := by
  refine fun s => ⟨fun hs hp hv => ?_, fun hs hp => ?_, fun rest hs hq => ?_, fun rest hs hq => ?_⟩
  · exact step_of_fetch_publish (fetch_default_publish hs ((publishEnabled_iff s).mpr ⟨hp, hv⟩))
  · have hf := fetch_default_port hs (not_publishEnabled hp)
    refine ⟨fun w ws i hI hd => ?_, fun w ws i hI hC hd => ?_, fun hI hC => ?_⟩
    · rw [if_neg (by simp [hI])] at hf
      exact step_of_port_cons hf hI hd
    · rw [if_pos hI] at hf
      exact step_of_port_cons hf hC hd
    · rw [if_pos hI] at hf
      exact step_of_port_nil hf hC
  · exact step_of_port_nil (fetch_of_port hs) hq
  · exact step_of_port_nil (fetch_of_port hs) hq

/-! ### Requests and responses -/

/-- A request performed leaves the queues and the turns, and is answered on its port (R53). -/
theorem exec_answers {i : Instr} {s t : State} (h : exec i s = .next t) :
    t.reqI = s.reqI ∧ t.reqC = s.reqC ∧ t.sched = s.sched ∧ ∃ r, t.resp = some ⟨s.port, r⟩ := by
  by_cases hi : ∃ b, i = .parse b
  · obtain ⟨b, rfl⟩ := hi
    rcases execParse_next h with ⟨-, rfl⟩ | ⟨-, st, u, hcase, rfl⟩
    · exact ⟨rfl, rfl, rfl, _, rfl⟩
    · have same := hcase.surroundings
      exact ⟨same.reqI, same.reqC, same.sched, _, by rw [respond_resp, same.port]⟩
  · obtain ⟨rc, d, k, rfl⟩ := exec_other_next (not_exists.mp hi) h
    exact ⟨rfl, rfl, rfl, _, rfl⟩

/-- All a step can do at the ports: the state of the turn chosen, its request, if it is one,
answered. -/
theorem step_ports {s t : State} (h : step s = .next t) :
    ∃ x u, fetch s = (x, u) ∧ t.reqI = u.reqI ∧ t.reqC = u.reqC ∧ t.sched = u.sched ∧
      ((∃ w, x = .request w) ∧ (∃ r, t.resp = some ⟨u.port, r⟩) ∨
        (∀ w, x ≠ .request w) ∧ t.resp = none) := by
  rcases step_next h with ⟨w, u, i, hf, -, he⟩ | ⟨w, u, c, hf, -, rfl⟩ | ⟨u, hf, rfl⟩ |
    ⟨u, hf, rfl⟩ | hf
  · obtain ⟨hI, hC, hsched, hresp⟩ := exec_answers he
    exact ⟨_, u, hf, hI, hC, hsched, .inl ⟨⟨w, rfl⟩, hresp⟩⟩
  · exact ⟨_, u, hf, rfl, rfl, rfl, .inl ⟨⟨w, rfl⟩, _, reject_resp c u⟩⟩
  · exact ⟨_, u, hf, rfl, rfl, rfl, .inr ⟨nofun, (publish_resp u).trans (fetch_resp hf)⟩⟩
  · exact ⟨_, u, hf, rfl, rfl, rfl, .inr ⟨nofun, (resetInput_resp u).trans (fetch_resp hf)⟩⟩
  · exact ⟨_, t, hf, rfl, rfl, rfl, .inr ⟨nofun, fetch_resp hf⟩⟩

/-- Settles O40: the turn chosen takes at most one request, the oldest of its port, and that port is
the one answered. -/
theorem oneRequestOneResponse : Obligations.OneRequestOneResponse := by
  intro s t h
  obtain ⟨x, u, hf, hI, hC, -, hresp⟩ := step_ports h
  rw [hI, hC]
  cases fetch_eq hf with
  | requestI w ws hq =>
    obtain ⟨-, r, hr⟩ | ⟨hn, -⟩ := hresp
    · exact .inr (.inl ⟨w, r, hq, rfl, hr⟩)
    · exact absurd rfl (hn w)
  | requestC w ws hq =>
    obtain ⟨-, r, hr⟩ | ⟨hn, -⟩ := hresp
    · exact .inr (.inr ⟨w, r, hq, rfl, hr⟩)
    · exact absurd rfl (hn w)
  | _ =>
    obtain ⟨⟨w, hw⟩, -⟩ | ⟨-, hr⟩ := hresp
    · cases hw
    · exact .inl ⟨hr, rfl, rfl⟩

end Sys2Proof.Machine
end

section
/-! PROOFS. Every run settles (R45, R123): a state of the invariant has a next step, and each step
uses up a part of what waits. -/

namespace Sys2Proof.Machine

/-! ### Runs -/

theorem run_zero (s : State) : Sys2Proof.core.run 0 s = .next s := rfl

theorem run_succ {s t : State} (k : Nat) (h : step s = .next t) :
    Sys2Proof.core.run (k + 1) s = Sys2Proof.core.run k t := by
  have hstep : Sys2Proof.core.step s = .next t := h
  simp only [Host.Core.run, hstep]

/-! ### A next step -/

/-- The slot a READ of a valid index sees exists (R42, R44). -/
theorem StateInv.visibleSlot {s : State} (hi : StateInv s) {i : Nat} (h : i < s.cfg.n) :
    ∃ c, visCell s i = some c := by
  have hl : i < s.store.length := (memory_wf_iff _ _).mp hi.slots ▸ h
  unfold visCell
  split
  · exact ⟨_, rfl⟩
  · exact ⟨_, List.getElem?_eq_getElem hl⟩

/-- A PARSE on port C is rejected (R100). -/
theorem exec_parse_portC {s : State} (b : Byte) (hp : s.port = .portC) :
    exec (.parse b) s = .next (reject .badPort s) := by
  simp [exec, execParse, hp]

theorem exec_total {s : State} (hi : StateInv s) (i : Instr) : ∃ t, exec i s = .next t := by
  cases i with
  | parse b =>
    obtain ⟨st, u, hu⟩ := parseByte_total hi b
    cases hp : s.port with
    | portI => exact ⟨_, execParse_of_ok hp hu⟩
    | portC => exact ⟨_, exec_parse_portC b hp⟩
  | encode w => exact ⟨_, rfl⟩
  | read k =>
    by_cases hk : s.cfg.n ≤ k.toNat
    · exact ⟨_, if_pos hk⟩
    · obtain ⟨c, hc⟩ := hi.visibleSlot (Nat.lt_of_not_le hk)
      cases hw : c.wr <;> simp [exec, execRead, hk, memRead, hc, hw]
  | cursor => exact ⟨_, rfl⟩

theorem step_total {s : State} (hi : StateInv s) : ∃ t, step s = .next t := by
  rcases hf : fetch s with ⟨x, u⟩
  cases x with
  | request w =>
    cases hd : decode u.cfg.n u.port w with
    | ok i =>
      rw [step_of_fetch_request hf hd]
      exact exec_total (hi.of_sameFramer (fetch_sameFramer hf)) i
    | error c => exact ⟨_, step_of_fetch_rejected hf hd⟩
  | publish => exact ⟨_, step_of_fetch_publish hf⟩
  | reset => exact ⟨_, step_of_fetch_reset hf⟩
  | idle => exact ⟨_, step_of_fetch_idle hf⟩

/-! ### What is left to do -/

/-- What is left to do: the turns chosen, two steps for each waiting request (its own and the
PUBLISH it may cause), and the PUBLISH of a pending push. -/
def workLeft (s : State) : Nat :=
  s.sched.length + 2 * (s.reqI.length + s.reqC.length) + s.pend.toNat

theorem workLeft_le_settleBound (s : State) : workLeft s ≤ settleBound s := by
  have := s.pend.toNat_le
  unfold workLeft settleBound
  omega

theorem workLeft_eq_zero_iff (s : State) : workLeft s = 0 ↔ s.sched = [] ∧ Quiescent s := by
  cases hp : s.pend <;> simp [workLeft, Quiescent, hp]

/-- PUBLISH is enabled exactly while a push is pending (R46, R87). -/
theorem StateInv.publishEnabled_eq {s : State} (hi : StateInv s) :
    publishEnabled s = s.pend := by
  cases hv : s.cfg.vis with
  | lag1 => simp [publishEnabled, hv]
  | atomic => rw [hi.atomicNeverPends hv, not_publishEnabled (.inr hv)]

/-- While something is left to do, a step does some of it: a request's step does at least one of the
two steps counted for it, a PUBLISH its own, a reset and an idle step their chosen turn. -/
theorem step_workLeft {s t : State} (hi : StateInv s) (h : step s = .next t)
    (hw : workLeft s ≠ 0) : workLeft t < workLeft s := by
  obtain ⟨x, u, hf, hI, hC, hsched, -⟩ := step_ports h
  have htail := s.sched.length_tail
  have hpend := t.pend.toNat_le
  unfold workLeft
  rw [hI, hC, hsched]
  cases fetch_eq hf with
  | requestI w ws hq => simp only [hq, List.length_cons]; omega
  | requestC w ws hq => simp only [hq, List.length_cons]; omega
  | publish he =>
    obtain rfl : publish _ = t := by simpa [step_of_fetch_publish hf] using h
    have hs : s.pend = true := ((publishEnabled_iff s).mp he).1
    simp only [publish_pend, hs, Bool.toNat_false, Bool.toNat_true]
    omega
  | reset hr =>
    obtain rfl : resetInput _ = t := by simpa [step_of_fetch_reset hf] using h
    have hne : s.sched.length ≠ 0 := by rintro h0; simp [List.length_eq_zero_iff.mp h0] at hr
    simp only [resetInput_pend, Bool.toNat_false]
    omega
  | idle hidle =>
    obtain rfl : _ = t := by simpa [step_of_fetch_idle hf] using h
    have hne : s.sched.length ≠ 0 := by
      intro h0
      have hs := List.length_eq_zero_iff.mp h0
      obtain ⟨hpub, hqI, hqC⟩ := hidle hs
      have hp := hi.publishEnabled_eq.symm.trans hpub
      exact hw ((workLeft_eq_zero_iff s).mpr ⟨hs, hqI, hqC, hp⟩)
    simp only
    omega

/-- A run that does what is left to do, in as many steps at most. -/
theorem exists_settled_run (n : Nat) {s : State} (hi : StateInv s) (hn : workLeft s ≤ n) :
    ∃ k t, k ≤ n ∧ Sys2Proof.core.run k s = .next t ∧ workLeft t = 0 ∧ StateInv t := by
  induction n generalizing s with
  | zero => exact ⟨0, s, le_rfl, run_zero s, Nat.le_zero.mp hn, hi⟩
  | succ n ih =>
    by_cases hw : workLeft s = 0
    · exact ⟨0, s, Nat.zero_le _, run_zero s, hw, hi⟩
    · obtain ⟨u, hu⟩ := step_total hi
      have hlt := step_workLeft hi hu hw
      obtain ⟨k, t, hk, hrun, ht, hit⟩ := ih (everyStepKeepsTheInvariant _ _ hi hu) (by omega)
      exact ⟨k + 1, t, Nat.succ_le_succ hk, (run_succ k hu).trans hrun, ht, hit⟩

/-- Settles O48: every step does some of what is left to do, and that is within the bound. -/
theorem everyRunSettles : Obligations.EveryRunSettles := by
  intro s hi
  obtain ⟨k, t, hk, hrun, hw, hit⟩ := exists_settled_run _ hi (workLeft_le_settleBound s)
  obtain ⟨hs, hq⟩ := (workLeft_eq_zero_iff t).mp hw
  exact ⟨k, t, hk, hrun, hq, hs, hit⟩

end Sys2Proof.Machine
end

section
/-! PROOFS. What READ and CURSOR answer, and that the requests other than PARSE have no side effect
(R41, R44, R91, R93, R95). -/

namespace Sys2Proof.Machine

/-! ### The visible slot -/

/-- The slot of the pending push reads as before it (R44). -/
theorem visCell_pending {s : State} {i : Nat} (hp : s.pend = true) (hi : i = s.pidx) :
    visCell s i = some ⟨s.pold, s.poldw⟩ := by
  simp [visCell, hp, hi]

/-- Every other slot reads as the store holds it (R44). -/
theorem visCell_committed {s : State} {i : Nat} (h : s.pend = false ∨ i ≠ s.pidx) :
    visCell s i = s.store[i]? := by
  rcases h with h | h <;> simp [visCell, h]

theorem visWord_of_written {s : State} {i : Nat} {c : Slot} (h : visCell s i = some c)
    (hw : c.wr = true) : visWord s i = some c.word := by
  simp [visWord, h, hw]

/-! ### READ -/

theorem execRead_of_ok {s t : State} {i : Byte} {v : Word} (hi : i.toNat < s.cfg.n)
    (h : memRead i.toNat s = .ok (v, t)) :
    execRead i s = .next (respond .ok noStatus (v.setWidth 64) t) := by
  simp [execRead, Nat.not_le.mpr hi, h]

theorem execRead_badIndex {s : State} {i : Byte} (hi : s.cfg.n ≤ i.toNat) :
    execRead i s = .next (reject .badIndex s) :=
  if_pos hi

/-- READ of a valid index whose visible slot is `c` (R91). -/
theorem execRead_visible {s : State} {i : Byte} {c : Slot} (hi : i.toNat < s.cfg.n)
    (h : visCell s i.toNat = some c) :
    (c.wr = true → execRead i s = .next (respond .ok noStatus (c.word.setWidth 64) s)) ∧
    (c.wr = false → ∃ v : Word, execRead i s =
      .next (respond .ok noStatus (v.setWidth 64) { s with draws := s.draws + 1 })) :=
  ⟨fun hw => execRead_of_ok hi (memRead_written (visWord_of_written h hw)),
    fun hw => ⟨_, execRead_of_ok hi (memRead_unwritten h hw)⟩⟩

/-- Settles O29: READ answers the visible slot, which is the pending record's for the slot of a
pending push and the store's for every other. -/
theorem readAnswersTheVisibleSlot : Obligations.ReadAnswersTheVisibleSlot :=
  fun _ _ _ => ⟨fun hi hp hidx => execRead_visible hi (visCell_pending hp hidx),
    fun hi hp hc => execRead_visible hi ((visCell_committed hp).trans hc), execRead_badIndex⟩

/-! ### CURSOR -/

theorem StateInv.visCur_lt {s : State} (hi : StateInv s) : visCur s < s.cfg.n := by
  unfold visCur
  split
  · exact hi.pendingSlot
  · exact hi.cursor

theorem exec_cursor {s : State} {c : Nat} (h : visCur s = c) :
    exec .cursor s = .next { s with
      resp := some ⟨s.port, responseWord .ok noStatus (BitVec.ofNat 64 c)⟩ } := by
  subst h; rfl

/-- Settles O30: CURSOR answers `VisCur`, a slot index in a state of the invariant and so not cut
short by the response's data field. -/
theorem cursorAnswersTheVisibleCursor : Obligations.CursorAnswersTheVisibleCursor := by
  refine fun s => ⟨fun hp => exec_cursor (if_pos hp), fun hp => exec_cursor (by simp [visCur, hp]),
    fun hi => ⟨_, _, rfl, respond_resp .., ?_, hi.visCur_lt⟩⟩
  have hlt := hi.visCur_lt.trans_le s.cfg.n_le
  rw [respData_responseWord, BitVec.toNat_ofNat, Nat.mod_eq_of_lt (by omega)]

/-! ### No side effect (R41) -/

/-- The state with another last response and another count of draws: all that a request other than
PARSE may change. -/
def withAnswer (resp : Option Response) (draws : Nat) (s : State) : State :=
  { s with resp := resp, draws := draws }

/-- A request other than PARSE changes the response and the count of draws alone (R41). -/
theorem exec_other_withAnswer {i : Instr} {s t : State} (hi : ∀ b, i ≠ .parse b)
    (h : exec i s = .next t) : t = withAnswer t.resp t.draws s := by
  obtain ⟨rc, d, k, rfl⟩ := exec_other_next hi h
  rfl

/-- A READ that is rejected or finds a written content answers the same again (R41). -/
theorem execRead_again {s t : State} {k : Byte} (h : execRead k s = .next t)
    (hk : s.cfg.n ≤ k.toNat ∨ visWord s k.toNat ≠ none) : execRead k t = .next t := by
  rcases execRead_next h with ⟨hn, rfl⟩ | ⟨hn, v, u, hm, rfl⟩
  · exact execRead_badIndex hn
  · rcases memRead_ok hm with ⟨hv, rfl⟩ | ⟨hv, -⟩
    · have hm' := memRead_written (s := respond .ok noStatus (v.setWidth 64) u) hv
      exact (execRead_of_ok (i := k) (by exact hn) hm' :)
    · exact absurd hv (hk.resolve_left (Nat.not_le.mpr hn))

/-- Settles O32: the answer of ENCODE and CURSOR, and of a READ that draws nothing, is made of what
the request leaves unchanged. -/
theorem repeatedRequestAnswersTheSame : Obligations.RepeatedRequestAnswersTheSame := by
  intro s t i hi h
  refine ⟨exec_other_withAnswer hi h, fun hread => ?_⟩
  cases i with
  | parse b => exact absurd rfl (hi b)
  | encode w => cases h; rfl
  | read k => exact execRead_again h (hread k rfl)
  | cursor => cases h; rfl

end Sys2Proof.Machine
end

section
/-! PROOFS. A transition of the parser in a state that differs in what no transition reads (R95), or
in the store's visibility (R46). -/

namespace Sys2Proof.Machine

/-- Every case of a transition is what the parser answers (R70 to R74). -/
theorem ParseCase.parseByte_eq {b : Byte} {s t : State} {st : ParseStatus}
    (h : ParseCase b s st t) : parseByte b s = .ok (st, t) := by
  cases h with
  | headerOne hps => by_cases hb : b = s.cfg.h1 <;> simp [parseByte, stepWaitHead1, hps, hb]
  | headerTwo hps => by_cases hb : b = s.cfg.h2 <;> simp [parseByte, stepWaitHead2, hps, hb]
  | data hps hc => simp [parseByte, stepReceiveData, hps, hc]
  | trailerOne hps hb => simp [parseByte, stepWaitTail1, hps, hb]
  | mismatch hps =>
    rcases hps with ⟨hps, hb⟩ | ⟨hps, hb⟩ <;>
      simp [parseByte, stepWaitTail1, stepWaitTail2, hps, hb]
  | complete hps hb u hp => simp [parseByte, stepWaitTail2, hps, hb, hp]

/-- A PARSE on port I of a byte whose transition is known. -/
theorem ParseCase.exec_eq {b : Byte} {s t : State} {st : ParseStatus} (h : ParseCase b s st t)
    (hp : s.port = .portI) : exec (.parse b) s = .next (respond .ok (psCode st) 0 t) :=
  execParse_of_ok hp h.parseByte_eq

/-! ### Other requests before a PARSE (R95) -/

theorem push_withAnswer {s t : State} {w : Word} (r : Option Response) (k : Nat)
    (h : push w s = .ok t) : push w (withAnswer r k s) = .ok (withAnswer r k t) := by
  obtain ⟨old, hold, ⟨hv, rfl⟩ | ⟨hv, rfl⟩⟩ := push_ok h
  · exact push_lag1 (s := withAnswer r k s) w hv hold
  · exact push_atomic (s := withAnswer r k s) w hv hold

/-- A transition reads neither the last response nor the count of draws. -/
theorem ParseCase.withAnswer {b : Byte} {s t : State} {st : ParseStatus} (r : Option Response)
    (k : Nat) (h : ParseCase b s st t) :
    ParseCase b (Machine.withAnswer r k s) st (Machine.withAnswer r k t) := by
  cases h with
  | headerOne hps => exact .headerOne hps
  | headerTwo hps => exact .headerTwo hps
  | data hps hc => exact .data (s := Machine.withAnswer r k s) hps hc
  | trailerOne hps hb => exact .trailerOne hps hb
  | mismatch hps => exact .mismatch hps
  | complete hps hb u hp => exact .complete (s := Machine.withAnswer r k s) hps hb _ (push_withAnswer r k hp)

/-- Nor does a PARSE, which leaves the count of draws and answers anew. -/
theorem exec_parse_withAnswer {b : Byte} {s v : State} (r : Option Response) (k : Nat)
    (h : exec (.parse b) s = .next v) :
    exec (.parse b) (withAnswer r k s) = .next { v with draws := k } := by
  rcases execParse_next h with ⟨hp, rfl⟩ | ⟨hp, st, u, hcase, rfl⟩
  · exact exec_parse_portC (s := withAnswer r k s) b hp
  · exact (hcase.withAnswer r k).exec_eq hp

/-- Settles O34: a request that is not a PARSE changes nothing that a PARSE reads. -/
theorem otherRequestsDoNotDisturbParse : Obligations.OtherRequestsDoNotDisturbParse := by
  intro s u v i b p hi hu hv
  rw [exec_other_withAnswer hi hu]
  exact exec_parse_withAnswer u.resp u.draws hv

/-! ### ATOMIC and LAG1 (R46) -/

/-- The state of the same FRAMER built with `STORE_VIS = LAG1`. -/
def lagging (s : State) : State :=
  { s with cfg := { s.cfg with vis := .lag1 } }

/-- `u` agrees with `t` on the parser, the committed store and what stands at the ports, and shows
after a PUBLISH the view of `t` (R46). -/
structure PublishesAs (u t : State) : Prop where
  ps : u.ps = t.ps
  buf : u.buf = t.buf
  cnt : u.cnt = t.cnt
  store : u.store = t.store
  wcur : u.wcur = t.wcur
  port : u.port = t.port
  notPending : t.pend = false

theorem PublishesAs.visCur_eq {u t : State} (h : PublishesAs u t) :
    visCur (publish u) = visCur t := by
  simp [visCur, h.notPending, h.wcur]

theorem PublishesAs.visCell_eq {u t : State} (h : PublishesAs u t) (i : Nat) :
    visCell (publish u) i = visCell t i := by
  rw [visCell_of_notPending rfl, visCell_of_notPending h.notPending, publish_store, h.store]

/-- A PUSH under `ATOMIC` and one under `LAG1` commit the same (R85). -/
theorem push_lagging {s t : State} {w : Word} (hv : s.cfg.vis = .atomic) (hp : s.pend = false)
    (h : push w s = .ok t) : ∃ u, push w (lagging s) = .ok u ∧ PublishesAs u t := by
  obtain ⟨old, hold, ⟨hv', -⟩ | ⟨-, rfl⟩⟩ := push_ok h
  · rw [hv] at hv'; cases hv'
  · exact ⟨_, push_lag1 (s := lagging s) w rfl hold, rfl, rfl, rfl, rfl, rfl, rfl, hp⟩

theorem ParseCase.lagging {b : Byte} {s t : State} {st : ParseStatus} (h : ParseCase b s st t)
    (hv : s.cfg.vis = .atomic) (hp : s.pend = false) :
    ∃ u, ParseCase b (Machine.lagging s) st u ∧ PublishesAs u t := by
  cases h with
  | headerOne hps => exact ⟨_, .headerOne hps, rfl, rfl, rfl, rfl, rfl, rfl, hp⟩
  | headerTwo hps => exact ⟨_, .headerTwo hps, rfl, rfl, rfl, rfl, rfl, rfl, hp⟩
  | data hps hc => exact ⟨_, .data (s := Machine.lagging s) hps hc, rfl, rfl, rfl, rfl, rfl, rfl, hp⟩
  | trailerOne hps hb => exact ⟨_, .trailerOne hps hb, rfl, rfl, rfl, rfl, rfl, rfl, hp⟩
  | mismatch hps => exact ⟨_, .mismatch hps, rfl, rfl, rfl, rfl, rfl, rfl, hp⟩
  | complete hps hb x hx =>
    obtain ⟨y, hy, same⟩ := push_lagging hv hp hx
    exact ⟨_, .complete (s := Machine.lagging s) hps hb y hy, rfl, same.buf, rfl, same.store, same.wcur, same.port,
      same.notPending⟩

/-- A PARSE is rejected under both settings, or makes the same transition under both. -/
theorem exec_parse_lagging {b : Byte} {s t : State} (hv : s.cfg.vis = .atomic)
    (hp : s.pend = false) (h : exec (.parse b) s = .next t) :
    ∃ u, exec (.parse b) (lagging s) = .next u ∧ u.resp = t.resp ∧ PublishesAs u t := by
  rcases execParse_next h with ⟨hport, rfl⟩ | ⟨hport, st, x, hcase, rfl⟩
  · exact ⟨_, exec_parse_portC (s := lagging s) b hport, rfl, rfl, rfl, rfl, rfl, rfl, rfl, hp⟩
  · obtain ⟨y, hy, same⟩ := hcase.lagging hv hp
    exact ⟨_, hy.exec_eq hport, by rw [respond_resp, respond_resp, same.port], same.ps, same.buf,
      same.cnt, same.store, same.wcur, same.port, same.notPending⟩

/-- Settles O44: a PARSE answers and commits the same under both settings, and PUBLISH shows what
`LAG1` left pending. -/
theorem atomicRefinesLagging : Obligations.AtomicRefinesLagging := by
  intro s t b hv hp h
  obtain ⟨u, hu, hresp, same⟩ := exec_parse_lagging hv hp h
  exact ⟨u, hu, hresp, same.ps, same.buf, same.cnt, same.store, same.wcur, same.visCur_eq,
    same.visCell_eq⟩

end Sys2Proof.Machine
end

section
/-! PROOFS. The placings of PUBLISH in a program (R45, R65), and the state in which a program is
placed. -/

namespace Sys2Proof.Machine

/-! ### Placings of PUBLISH -/

@[simp] theorem withPublishes_nil (es : List Event) : withPublishes [] es = es := by
  simp [withPublishes]

/-- The PUBLISH steps before the first step, the step, and the placing in the rest. -/
theorem withPublishes_cons (pub : List Nat) (e : Event) (es : List Event) :
    withPublishes pub (e :: es) =
      List.replicate (pub.headD 0) .publish ++ e :: withPublishes pub.tail es := by
  cases pub <;> simp [withPublishes]

/-- One more PUBLISH at the front is a placing too. -/
theorem exists_withPublishes_publish (pub : List Nat) (es : List Event) :
    ∃ pub', withPublishes pub' es = .publish :: withPublishes pub es := by
  cases pub with
  | nil => exact ⟨[1], by cases es <;> simp [withPublishes]⟩
  | cons n ns => exact ⟨(n + 1) :: ns, by cases es <;> simp [withPublishes, List.replicate_succ]⟩

/-- Every list of steps is some placing of PUBLISH in the list of its other steps. -/
theorem exists_withPublishes (es : List Event) :
    ∃ pub, withPublishes pub (es.filter fun e => e != .publish) = es := by
  induction es with
  | nil => exact ⟨[], by simp⟩
  | cons e es ih =>
    obtain ⟨pub, hpub⟩ := ih
    by_cases he : e = .publish
    · obtain ⟨pub', h⟩ := exists_withPublishes_publish pub (es.filter fun e => e != .publish)
      exact ⟨pub', by simpa [he, hpub] using h⟩
    · exact ⟨0 :: pub, by simp [he, withPublishes, hpub]⟩

/-- Settles O51: a program without a `!publish` line has no PUBLISH step of its own, so taking the
scheduler's out leaves its steps, and every list of steps is some placing in what that leaves. -/
theorem programsLeavePublicationOpen : Obligations.ProgramsLeavePublicationOpen := by
  refine fun c ls => ⟨fun h pub => if_pos h, fun h es => ?_⟩
  simp only [programEvents, if_neg h]
  constructor
  · intro hes
    rw [← hes]
    exact exists_withPublishes es
  · rintro ⟨pub, rfl⟩
    exact withPublishes_filter pub fun e => ne_publish_of_lines h

end Sys2Proof.Machine
end

section
/-! PROOFS. A frame fed to port I, with the publisher's turns wherever the scheduler puts them (R45,
R65, R66): how the run reaches each of its bytes. -/

namespace Sys2Proof.Machine

/-! ### A program placed in the state -/

/-- Whose turn an event is. -/
def Event.agent : Event → Agent
  | .request p _ => .port p
  | .publish => .publisher
  | .reset => .resetSource

/-- The request word an event issues on port `p`, if it issues one there. -/
def Event.wordOn (p : Port) : Event → Option ReqWord
  | .request q w => if q = p then some w else none
  | .publish => none
  | .reset => none

theorem addEvent_sched (s : State) (e : Event) : (addEvent s e).sched = s.sched ++ [e.agent] := by
  cases e <;> rfl

theorem addEvent_queue (s : State) (e : Event) (p : Port) :
    queue p (addEvent s e) = queue p s ++ (e.wordOn p).toList := by
  cases e with
  | request q w => cases p <;> cases q <;> simp [queue, addEvent, setQueue, Event.wordOn]
  | publish => cases p <;> simp [queue, addEvent, Event.wordOn]
  | reset => cases p <;> simp [queue, addEvent, Event.wordOn]

theorem sameFramer_addEvent (s : State) (e : Event) : SameFramer s (addEvent s e) := by
  cases e with
  | request p w => cases p <;> exact sameFramer_ports ..
  | publish => exact sameFramer_ports ..
  | reset => exact sameFramer_ports ..

/-- Placing steps chooses their turns, issues their requests and touches no element of R17. -/
theorem foldl_addEvent (es : List Event) (s : State) :
    SameFramer s (es.foldl addEvent s) ∧
      (es.foldl addEvent s).sched = s.sched ++ es.map Event.agent ∧
      ∀ p, queue p (es.foldl addEvent s) = queue p s ++ es.filterMap (Event.wordOn p) := by
  induction es generalizing s with
  | nil => exact ⟨sameFramer_ports .., by simp, by simp⟩
  | cons e es ih =>
    obtain ⟨same, hsched, hqueue⟩ := ih (addEvent s e)
    refine ⟨(sameFramer_addEvent s e).trans same, ?_, fun p => ?_⟩
    · rw [List.foldl_cons, hsched, addEvent_sched]; simp
    · rw [List.foldl_cons, hqueue, addEvent_queue]
      cases hw : e.wordOn p <;> simp [hw]

/-- The scheduler's PUBLISH steps issue no request. -/
theorem withPublishes_filterMap_wordOn (pub : List Nat) (es : List Event) (p : Port) :
    (withPublishes pub es).filterMap (Event.wordOn p) = es.filterMap (Event.wordOn p) := by
  induction es generalizing pub with
  | nil => cases pub <;> simp [withPublishes, Event.wordOn]
  | cons e es ih => simp [withPublishes_cons, List.filterMap_cons, ih, Event.wordOn]

/-! ### Bytes waiting on port I -/

/-- The bytes `bs` wait on port I, and the turns chosen are theirs with the PUBLISH turns `pub`
placed between them. -/
structure Awaits (pub : List Nat) (bs : List Byte) (s : State) : Prop where
  sched : s.sched =
    (withPublishes pub (bs.map fun b => .request .portI (encode (.parse b)))).map Event.agent
  reqI : s.reqI = bs.map fun b => encode (.parse b)

/-- A program that is one `feed` issues the bytes of the frame (R66). -/
theorem load_feed (pub : List Nat) (w : Word) {s : State} (hs : s.sched = []) (hI : s.reqI = []) :
    SameFramer s (load pub [.feed w] s) ∧
      Awaits pub (frameBytes s.cfg w) (load pub [.feed w] s) := by
  have hevents : programEvents pub s.cfg [.feed w] = withPublishes pub
      ((frameBytes s.cfg w).map fun b => .request .portI (encode (.parse b))) := by
    simp [programEvents, lineEvents, feedWords, Function.comp_def]
  obtain ⟨same, hsched, hqueue⟩ := foldl_addEvent (programEvents pub s.cfg [.feed w]) s
  refine ⟨same, by rw [load, hsched, hs, hevents]; rfl, ?_⟩
  have hq := hqueue .portI
  rw [hevents, withPublishes_filterMap_wordOn] at hq
  simpa [queue, hI, hevents, load, Event.wordOn, Function.comp_def] using hq

/-- A request performed leaves what waits. -/
theorem Awaits.exec {pub : List Nat} {bs : List Byte} {i : Instr} {s t : State}
    (ha : Awaits pub bs s) (h : exec i s = .next t) : Awaits pub bs t := by
  obtain ⟨hI, -, hsched, -⟩ := exec_answers h
  exact ⟨hsched.trans ha.sched, hI.trans ha.reqI⟩

/-! ### Runs in parts -/

theorem run_one (s : State) : Sys2Proof.core.run 1 s = step s := by
  simp only [Host.Core.run]
  split <;> exact Eq.symm ‹_›

theorem run_add {j : Nat} {s t : State} (k : Nat) (h : Sys2Proof.core.run j s = .next t) :
    Sys2Proof.core.run (j + k) s = Sys2Proof.core.run k t := by
  induction j generalizing s with
  | zero => cases h; rw [Nat.zero_add]
  | succ j ih =>
    rw [Nat.succ_add]
    simp only [Host.Core.run] at h
    split at h
    case h_1 hstep => exact (run_succ _ hstep).trans (ih h)
    all_goals cases h

/-! ### The publisher's turns -/

/-- A property of the state that neither what stands at the ports nor a PUBLISH can change. -/
structure PublishStable (P : State → Prop) : Prop where
  framer : ∀ {u v : State}, SameFramer u v → P u → P v
  publish : ∀ {u : State}, P u → P (publish u)

/-- A turn of the publisher, whether PUBLISH is enabled or not (log entry 13). -/
theorem step_publisher {P : State → Prop} (hP : PublishStable P) {s : State} {rest : List Agent}
    (h : P s) (hs : s.sched = .publisher :: rest) :
    ∃ u, step s = .next u ∧ P u ∧ u.sched = rest ∧ u.reqI = s.reqI := by
  have hf : fetch s = takeTurn .publisher { s with sched := rest, resp := none } := by
    simp [fetch, hs]
  have hv : P { s with sched := rest, resp := none } := hP.framer (sameFramer_ports ..) h
  cases hp : publishEnabled { s with sched := rest, resp := none } with
  | true => exact ⟨_, step_of_fetch_publish (by rw [hf, takeTurn, hp]; rfl), hP.publish hv, rfl, rfl⟩
  | false => exact ⟨_, step_of_fetch_idle (by rw [hf, takeTurn, hp]; rfl), hv, rfl, rfl⟩

theorem run_publisher {P : State → Prop} (hP : PublishStable P) (n : Nat) {s : State}
    {rest : List Agent} (h : P s) (hs : s.sched = List.replicate n .publisher ++ rest) :
    ∃ u, Sys2Proof.core.run n s = .next u ∧ P u ∧ u.sched = rest ∧ u.reqI = s.reqI := by
  induction n generalizing s with
  | zero => exact ⟨s, run_zero s, h, hs, rfl⟩
  | succ n ih =>
    obtain ⟨u, hstep, hu, husched, huI⟩ := step_publisher hP h hs
    obtain ⟨v, hrun, hv, hvsched, hvI⟩ := ih hu husched
    exact ⟨v, (run_succ n hstep).trans hrun, hv, hvsched, hvI.trans huI⟩

/-! ### One byte after another -/

theorem decode_encode_parse (n : Nat) (b : Byte) :
    decode n .portI (encode (.parse b)) = .ok (.parse b) := by
  simp [decode, encode]

/-- The publisher's turns before the next byte, and the PARSE of that byte. -/
theorem run_nextByte {P : State → Prop} (hP : PublishStable P) {pub : List Nat} {b : Byte}
    {bs : List Byte} {s : State} (h : P s) (ha : Awaits pub (b :: bs) s) :
    ∃ u, P u ∧ u.port = .portI ∧ Awaits pub.tail bs u ∧
      Sys2Proof.core.run (pub.headD 0 + 1) s = exec (.parse b) u := by
  have hsched := ha.sched
  rw [List.map_cons, withPublishes_cons, List.map_append, List.map_replicate] at hsched
  obtain ⟨v, hrun, hv, hvsched, hvI⟩ := run_publisher hP _ h hsched
  have hstep := step_of_port_cons (fetch_of_port hvsched) (hvI.trans ha.reqI)
    (decode_encode_parse _ b)
  refine ⟨_, ?_, ?_, ?_, (run_add 1 hrun).trans ((run_one v).trans hstep)⟩
  · exact hP.framer (u := v) (sameFramer_ports ..) hv
  · rfl
  · exact ⟨rfl, rfl⟩

/-- Where each PARSE but the last leads from what holds at its byte to what holds at the next, the
run comes to the PARSE of every byte with what holds there. -/
theorem run_toByte {P : Nat → State → Prop} (hP : ∀ k, PublishStable (P k)) {bs : List Byte}
    (hparse : ∀ (k : Nat) (hk : k + 1 < bs.length) (u : State), P k u → u.port = .portI →
      ∃ v, exec (.parse bs[k]) u = .next v ∧ P (k + 1) v)
    {pub : List Nat} {s : State} (h : P 0 s) (ha : Awaits pub bs s) {k : Nat}
    (hk : k < bs.length) :
    ∃ u, P k u ∧ u.port = .portI ∧
      Sys2Proof.core.run (k + 1 + (pub.take (k + 1)).sum) s = exec (.parse bs[k]) u := by
  induction bs generalizing P pub s k with
  | nil => cases hk
  | cons b bs ih =>
    have hsteps (j : Nat) : j + 1 + (pub.take (j + 1)).sum =
        pub.headD 0 + 1 + (j + (pub.tail.take j).sum) := by
      cases pub <;> simp <;> omega
    obtain ⟨u, hu, hport, hau, hrun⟩ := run_nextByte (hP 0) h ha
    cases k with
    | zero => exact ⟨u, hu, hport, by rw [hsteps]; exact hrun⟩
    | succ k =>
      have hk' : k < bs.length := by simpa using hk
      obtain ⟨v, hv, hPv⟩ := hparse 0 (by simp; omega) u hu hport
      obtain ⟨x, hx, hxport, hxrun⟩ := ih (P := fun j => P (j + 1)) (fun j => hP (j + 1))
        (fun j hj => hparse (j + 1) (by simpa using hj)) hPv (hau.exec hv) hk'
      refine ⟨x, hx, hxport, ?_⟩
      rw [hsteps, run_add _ (hrun.trans hv)]
      exact hxrun

end Sys2Proof.Machine
end

section
/-! PROOFS. A frame fed to the parser: after noise ending in `H1` it is hidden, to an idle parser it
is recognized (R70 to R75, R80, R96). -/

namespace Sys2Proof.Machine

/-! ### After noise ending in `H1` (R80) -/

/-- Of the frame `k` bytes have come, none of them as a byte of a frame candidate: the first found
the parser in `WaitHead2`, the others in `WaitHead1`, and the store is as it was. -/
structure Hidden (s : State) (k : Nat) (u : State) : Prop where
  cfg : u.cfg = s.cfg
  store : u.store = s.store
  wcur : u.wcur = s.wcur
  ps : u.ps = if k = 0 then .waitHead2 else .waitHead1

theorem hidden_publishStable (s : State) (k : Nat) : PublishStable (Hidden s k) where
  framer same h := ⟨same.cfg.trans h.cfg, same.store.trans h.store, same.wcur.trans h.wcur,
    same.ps.trans h.ps⟩
  publish h := ⟨h.cfg, h.store, h.wcur, h.ps⟩

/-- A byte that is not the one the header search waits for leads to `WaitHead1` (R70, R71). -/
theorem parse_hidden {s u : State} {k : Nat} {b : Byte} (h : Hidden s k u) (hp : u.port = .portI)
    (hb : b ≠ if k = 0 then s.cfg.h2 else s.cfg.h1) :
    ∃ v, exec (.parse b) u = .next v ∧ Responded v .portI .ok (psCode .inProgress) 0 ∧
      Hidden s (k + 1) v := by
  have hps := h.ps
  split at hps
  case isTrue hk =>
    rw [if_pos hk, ← h.cfg] at hb
    exact ⟨_, (ParseCase.headerTwo hps).exec_eq hp, by simp [Responded, hp],
      h.cfg, h.store, h.wcur, by simp [hb]⟩
  case isFalse hk =>
    rw [if_neg hk, ← h.cfg] at hb
    exact ⟨_, (ParseCase.headerOne hps).exec_eq hp, by simp [Responded, hp],
      h.cfg, h.store, h.wcur, by simp [hb]⟩

/-- Every byte of such a frame is another than the one waited for (R80). -/
theorem frameBytes_hidden {c : Config} {w : Word} (h12 : c.h1 ≠ c.h2) (ht1 : c.t1 ≠ c.h1)
    (ht2 : c.t2 ≠ c.h1) (hw : ∀ k, k < 4 → payloadByte w k ≠ c.h1) {k : Nat}
    (hk : k < (frameBytes c w).length) : (frameBytes c w)[k] ≠ if k = 0 then c.h2 else c.h1 := by
  have hk8 : k < 8 := hk
  interval_cases k
  · exact h12
  · exact h12.symm
  · exact hw 0 (by decide)
  · exact hw 1 (by decide)
  · exact hw 2 (by decide)
  · exact hw 3 (by decide)
  · exact ht1
  · exact ht2

/-- Settles O47: the frame's `H1` ends the candidate that the noise began, and none of its later
bytes begins another. -/
theorem noiseEndingInHeaderHidesTheFrame : Obligations.NoiseEndingInHeaderHidesTheFrame := by
  intro s w pub hps hs hI h12 ht1 ht2 hw k hk1 hk8
  obtain ⟨same, ha⟩ := load_feed pub w hs hI
  have h0 : Hidden s 0 (load pub [.feed w] s) := ⟨same.cfg, same.store, same.wcur, same.ps.trans hps⟩
  have hbyte {k : Nat} (hk : k < (frameBytes s.cfg w).length) :=
    frameBytes_hidden h12 ht1 ht2 hw hk
  obtain ⟨j, rfl⟩ : ∃ j, k = j + 1 := ⟨k - 1, by omega⟩
  have hj : j < (frameBytes s.cfg w).length := hk8
  obtain ⟨u, hu, hport, hrun⟩ := run_toByte (hidden_publishStable s)
    (fun i hi u hu hp =>
      let ⟨v, hv, _, hvh⟩ := parse_hidden hu hp (hbyte (Nat.lt_of_succ_lt hi))
      ⟨v, hv, hvh⟩) h0 ha hj
  obtain ⟨v, hv, hresp, hvh⟩ := parse_hidden hu hport (hbyte hj)
  exact ⟨v, hrun.trans hv, hresp, by simpa using hvh.ps, hvh.store, hvh.wcur⟩

/-! ### To an idle parser (R80, R96) -/

/-- The first `k` bytes of the frame of `w`, fewer than all, have come to a parser that was idle in
`s`: they are the bytes of the candidate, its payload bytes are in the buffer (R21), and the store is
as it was. -/
structure Receiving (s : State) (w : Word) (k : Nat) (u : State) : Prop where
  inv : StateInv u
  cfg : u.cfg = s.cfg
  store : u.store = s.store
  wcur : u.wcur = s.wcur
  count : validated u = k
  payload : ∀ j (hj : j < 4), j < u.cnt.val → u.buf[j] = payloadByte w j

theorem SameFramer.validated_eq {s t : State} (h : SameFramer s t) : validated t = validated s := by
  simp only [validated, h.ps, h.cnt]

theorem receiving_publishStable (s : State) (w : Word) (k : Nat) :
    PublishStable (Receiving s w k) where
  framer same h := {
    inv := h.inv.of_sameFramer same
    cfg := same.cfg.trans h.cfg
    store := same.store.trans h.store
    wcur := same.wcur.trans h.wcur
    count := same.validated_eq.trans h.count
    payload := by rw [same.buf, same.cnt]; exact h.payload }
  publish h := ⟨h.inv.publish, h.cfg, h.store, h.wcur, h.count, h.payload⟩

/-- The byte at offset `k` of a frame fits a candidate of `k` bytes (R33). -/
theorem fits_frameByte {u : State} {w : Word} {k : Nat} (hk : k < (frameBytes u.cfg w).length)
    (hc : validated u = k) : fits (frameBytes u.cfg w)[k] u = true := by
  subst hc
  cases hps : u.ps <;> simp [fits, validated, frameBytes, hps]

/-- A byte that fits is no error (R69). -/
theorem ParseCase.ne_error {b : Byte} {s t : State} {st : ParseStatus} (h : ParseCase b s st t)
    (hf : fits b s = true) : st ≠ .error := by
  rw [ne_eq, h.error_iff]
  rintro (⟨hps, hb⟩ | ⟨hps, hb⟩) <;> simp [fits, hps, hb] at hf

/-- The frame's byte after `H1`, `H2` and `j` payload bytes is payload byte `j` (R33). -/
theorem frameBytes_payload (c : Config) (w : Word) {j : Nat} (hj : j < 4) :
    (frameBytes c w)[2 + j]? = some (payloadByte w j) := by
  interval_cases j <;> rfl

/-- A transition on the frame's next byte leaves the candidate's payload bytes in the buffer
(R72). -/
theorem ParseCase.payload {b : Byte} {u v : State} {st : ParseStatus} {w : Word}
    (h : ParseCase b u st v) (hb : (frameBytes u.cfg w)[Machine.validated u]? = some b)
    (hpay : ∀ j (hj : j < 4), j < u.cnt.val → u.buf[j] = payloadByte w j) :
    ∀ j (hj : j < 4), j < v.cnt.val → v.buf[j] = payloadByte w j := by
  cases h with
  | data hps hc =>
    have hbyte : b = payloadByte w u.cnt.val := by
      have hv : Machine.validated u = 2 + u.cnt.val := by simp [Machine.validated, hps]
      rw [hv, frameBytes_payload _ _ hc] at hb
      exact (Option.some.inj hb).symm
    intro j hj hlt
    rw [Vector.getElem_set]
    split
    case isTrue hjc => rw [hbyte, hjc]
    case isFalse hjc =>
      have hlt' : j < u.cnt.val + 1 := hlt
      exact hpay j hj (by omega)
  | mismatch => exact fun j _ hlt => absurd hlt (Nat.not_lt_zero j)
  | complete => exact fun j _ hlt => absurd hlt (Nat.not_lt_zero j)
  | _ => exact hpay

/-- What a PARSE of the frame's next byte does: a transition on a byte that fits. -/
theorem Receiving.parse {s u : State} {w : Word} {k : Nat} (h : Receiving s w k u)
    (hp : u.port = .portI) (hk : k < (frameBytes s.cfg w).length) :
    ∃ st v, ParseCase (frameBytes s.cfg w)[k] u st v ∧
      exec (.parse (frameBytes s.cfg w)[k]) u = .next (respond .ok (psCode st) 0 v) ∧
      Responded (respond .ok (psCode st) 0 v) .portI .ok (psCode st) 0 := by
  obtain ⟨st, v, hv⟩ := parseByte_total h.inv (frameBytes s.cfg w)[k]
  have hcase := parseByte_ok hv
  exact ⟨st, v, hcase, hcase.exec_eq hp, by rw [Responded, respond_resp, hcase.surroundings.port, hp]⟩

/-- Each byte but the last answers `InProgress` and is one more of the candidate. -/
theorem Receiving.next {s u : State} {w : Word} {k : Nat} (h : Receiving s w k u)
    (hp : u.port = .portI) (hk : k + 1 < (frameBytes s.cfg w).length) :
    ∃ v, exec (.parse (frameBytes s.cfg w)[k]) u = .next v ∧
      Responded v .portI .ok (psCode .inProgress) 0 ∧ Receiving s w (k + 1) v := by
  have hk7 : k < 7 := Nat.lt_of_succ_lt_succ hk
  obtain ⟨st, v, hcase, hexec, hresp⟩ := h.parse hp (Nat.lt_of_succ_lt hk)
  have hfits : fits (frameBytes s.cfg w)[k] u = true := by
    simpa only [h.cfg] using fits_frameByte (u := u) (w := w) (Nat.lt_of_succ_lt hk) h.count
  have hnc : st ≠ .complete := by
    rw [ne_eq, hcase.complete_iff, ← validated_eq_seven_iff, h.count]
    omega
  obtain rfl : st = .inProgress := by
    cases st with
    | inProgress => rfl
    | complete => exact absurd rfl hnc
    | error => exact absurd rfl (hcase.ne_error hfits)
  have same := hcase.sameStore hnc
  refine ⟨_, hexec, hresp, (receiving_publishStable ..).framer (sameFramer_respond ..) ?_⟩
  exact {
    inv := hcase.stateInv h.inv
    cfg := same.cfg.trans h.cfg
    store := same.store.trans h.store
    wcur := same.wcur.trans h.wcur
    count := by rw [hcase.validated h.inv.fill, if_pos hfits, h.count, Nat.mod_eq_of_lt (by omega)]
    payload := hcase.payload (by rw [h.cfg, h.count]; exact List.getElem?_eq_getElem _) h.payload }

/-- After seven bytes of the frame the buffer holds its payload (R20, R72). -/
theorem Receiving.payloadWord_eq {s u : State} {w : Word} (h : Receiving s w 7 u) :
    payloadWord u.buf = w := by
  have hps := (validated_eq_seven_iff u).mp h.count
  have hcnt : u.cnt = 4 := by simpa [hps, fillOk] using h.inv.fill
  exact payloadWord_of_bytes fun k hk => h.payload k hk (by rw [hcnt]; exact hk)

/-- The last byte completes the frame and pushes its payload (R74, R85). -/
theorem Receiving.last {s u : State} {w : Word} (h : Receiving s w 7 u) (hp : u.port = .portI) :
    ∃ v, exec (.parse s.cfg.t2) u = .next v ∧
      Responded v .portI .ok (psCode .complete) 0 ∧ v.ps = .waitHead1 ∧ v.cnt = 0 ∧
      committedWord v s.wcur = some w ∧ v.wcur = (s.wcur + 1) % s.cfg.n ∧
      ∀ i, i ≠ s.wcur → v.store[i]? = s.store[i]? := by
  have hps := (validated_eq_seven_iff u).mp h.count
  obtain ⟨st, v, hcase, hexec, hresp⟩ := h.parse hp (k := 7) (Nat.lt_succ_self 7)
  obtain rfl : st = .complete := hcase.complete_iff.mpr ⟨hps, congrArg Config.t2 h.cfg.symm⟩
  have hword := hcase.committedWord_complete
  rw [h.wcur, h.payloadWord_eq] at hword
  obtain ⟨x, hx, rfl⟩ := hcase.completed
  refine ⟨_, hexec, hresp, rfl, rfl, hword, ?_, fun i hi => ?_⟩
  · obtain ⟨_, _, _, _, rfl⟩ := push_writes hx
    simp [h.wcur, h.cfg]
  · rw [← h.store, ← hcase.store_other (by rwa [h.wcur])]
    rfl

/-- Settles O45: the run comes to each byte of the frame with the bytes before it validated; the
first seven are `InProgress` and the last completes the frame. -/
theorem fedFrameIsRecognized : Obligations.FedFrameIsRecognized := by
  intro s w pub hi hps hs hI
  obtain ⟨same, ha⟩ := load_feed pub w hs hI
  have hcnt : s.cnt = 0 := by simpa [hps, fillOk] using hi.fill
  have h0 : Receiving s w 0 (load pub [.feed w] s) :=
    (receiving_publishStable ..).framer same
      ⟨hi, rfl, rfl, rfl, by simp [validated, hps], by simp [hcnt]⟩
  have hreach {k : Nat} (hk : k < (frameBytes s.cfg w).length) :=
    run_toByte (receiving_publishStable s w)
      (fun i hi u hu hp => let ⟨v, hv, _, hnext⟩ := hu.next hp hi; ⟨v, hv, hnext⟩) h0 ha hk
  constructor
  · intro k hk1 hk7
    obtain ⟨j, rfl⟩ : ∃ j, k = j + 1 := ⟨k - 1, by omega⟩
    have hj : j + 1 < (frameBytes s.cfg w).length := Nat.lt_succ_of_le hk7
    obtain ⟨u, hu, hport, hrun⟩ := hreach (Nat.lt_of_succ_lt hj)
    obtain ⟨v, hv, hresp, hnext⟩ := hu.next hport hj
    exact ⟨v, hrun.trans hv, hresp, hnext.store, hnext.wcur⟩
  · obtain ⟨u, hu, hport, hrun⟩ := hreach (k := 7) (Nat.lt_succ_self 7)
    obtain ⟨v, hv, hlast⟩ := hu.last hport
    exact ⟨v, hrun.trans hv, hlast⟩

end Sys2Proof.Machine
end

section
/-! PROOFS. The request decoder and encoder (R52, R57, R58, R60 to R62, R103): the decoder's verdict
is the first check that applies, and it accepts exactly the encodings of the requests that may be
performed. -/

namespace Sys2Proof

/-! ### The checks of R62, and the request of a word that passes them -/

/-- The opcode is no request's (R99). -/
abbrev BadOpcode (w : ReqWord) : Prop :=
  opField w ≠ 1 ∧ opField w ≠ 2 ∧ opField w ≠ 3 ∧ opField w ≠ 4

/-- A PARSE on port C (R100). -/
abbrev BadPort (p : Port) (w : ReqWord) : Prop :=
  opField w = 1 ∧ p = .portC

/-- A bit that must be 0 is set: of `RSV`, or of the operand where the opcode's format does not use
it (R58, R101). -/
abbrev BadReserved (w : ReqWord) : Prop :=
  rsvField w ≠ 0 ∨ ((opField w = 1 ∨ opField w = 3) ∧ opndHigh w ≠ 0) ∨
    (opField w = 4 ∧ opndField w ≠ 0)

/-- A READ of an index that a store of `n` slots does not have (R102). -/
abbrev BadIndex (n : Nat) (w : ReqWord) : Prop :=
  opField w = 3 ∧ n ≤ (opndByte w).toNat

/-- The request of a word's opcode, with the operand of its format (R57, R58). -/
def requestOf (w : ReqWord) : Instr :=
  if opField w = 1 then .parse (opndByte w)
  else if opField w = 2 then .encode (opndField w)
  else if opField w = 3 then .read (opndByte w)
  else .cursor

/-- The decoder answers the first check that applies (R103), and the request where none does. -/
theorem decode_eq_firstCheck (n : Nat) (p : Port) (w : ReqWord) :
    decode n p w =
      if BadOpcode w then .error .badOpcode
      else if BadPort p w then .error .badPort
      else if BadReserved w then .error .badReserved
      else if BadIndex n w then .error .badIndex
      else .ok (requestOf w) := by
  simp only [decode, requestOf, BadOpcode, BadPort, BadReserved, BadIndex]
  by_cases h1 : opField w = 1#4
  · by_cases hr : rsvField w = 0#4 <;> simp [h1, hr]
  by_cases h2 : opField w = 2#4
  · simp [h2]
  by_cases h3 : opField w = 3#4
  · by_cases hr : rsvField w = 0#4 <;> simp [h3, hr]
  by_cases h4 : opField w = 4#4
  · by_cases hr : rsvField w = 0#4 <;> simp [h4, hr]
  · simp [h1, h2, h3, h4]

/-! ### Accepted words -/

theorem wellFormed_parse_iff (n : Nat) (p : Port) (b : Byte) :
    (Instr.parse b).WellFormed n p = true ↔ p = .portI := by
  simp [Instr.WellFormed, Instr.portOk, Instr.indexOk]

theorem wellFormed_read_iff (n : Nat) (p : Port) (i : Byte) :
    (Instr.read i).WellFormed n p = true ↔ i.toNat < n := by
  simp [Instr.WellFormed, Instr.portOk, Instr.indexOk]

/-- A word that passes the checks is the word of its request, which may be performed. -/
theorem requestOf_accepted {n : Nat} {p : Port} {w : ReqWord} (hop : ¬ BadOpcode w)
    (hport : ¬ BadPort p w) (hrsv : ¬ BadReserved w) (hidx : ¬ BadIndex n w) :
    encode (requestOf w) = w ∧ (requestOf w).WellFormed n p = true := by
  obtain ⟨hr, hhigh, hopnd⟩ : rsvField w = 0 ∧ (opField w = 1 ∨ opField w = 3 → opndHigh w = 0) ∧
      (opField w = 4 → opndField w = 0) := by simpa [BadReserved] using hrsv
  have hw := reqWord_of_fields hr
  by_cases h1 : opField w = 1
  · have hp : p = .portI := by cases p <;> simp_all
    have henc : encode (.parse (opndByte w)) = w := by
      rw [encode, byteOperand_of_high (hhigh (.inl h1)), ← h1, hw]
    simpa only [requestOf, if_pos h1] using ⟨henc, (wellFormed_parse_iff ..).mpr hp⟩
  by_cases h2 : opField w = 2
  · have henc : encode (.encode (opndField w)) = w := by rw [encode, ← h2, hw]
    simpa only [requestOf, if_neg h1, if_pos h2] using ⟨henc, rfl⟩
  by_cases h3 : opField w = 3
  · have hn : (opndByte w).toNat < n := by simpa [h3] using hidx
    have henc : encode (.read (opndByte w)) = w := by
      rw [encode, byteOperand_of_high (hhigh (.inr h3)), ← h3, hw]
    simpa only [requestOf, if_neg h1, if_neg h2, if_pos h3] using
      ⟨henc, (wellFormed_read_iff ..).mpr hn⟩
  · have h4 : opField w = 4 := by
      by_contra h4
      exact hop ⟨h1, h2, h3, h4⟩
    have henc : encode .cursor = w := by rw [encode, ← hopnd h4, ← h4, hw]
    simpa only [requestOf, if_neg h1, if_neg h2, if_neg h3] using ⟨henc, rfl⟩

/-- Settles O2: only a word that passes every check of R62 is accepted. -/
theorem acceptedWordIsTheEncoding : Obligations.AcceptedWordIsTheEncoding := by
  intro n p w i h
  rw [decode_eq_firstCheck] at h
  split_ifs at h with hop hport hrsv hidx
  cases h
  exact requestOf_accepted hop hport hrsv hidx

/-- Settles O1: the fields of the request's word are its opcode and operand, every reserved bit is
0, and the checks of the port and the index are those of `WellFormed`. -/
theorem decodeOfEncodeIsTheRequest : Obligations.DecodeOfEncodeIsTheRequest := by
  intro n p i h
  cases i with
  | parse b =>
    obtain rfl := (wellFormed_parse_iff n p b).mp h
    exact Machine.decode_encode_parse n b
  | encode w => simp [decode, encode]
  | read k =>
    have hk := (wellFormed_read_iff n p k).mp h
    simp [decode, encode, hk]
  | cursor => simp [decode, encode]

/-- Settles O3: the decoder's answer for twelve closed words. -/
theorem requestWordExamples : Obligations.RequestWordExamples := by
  unfold Obligations.RequestWordExamples
  decide

end Sys2Proof
end

section
/-! PROOFS. The verdict of a step on a request word (R61, R62, R98 to R103). -/

namespace Sys2Proof.Machine

/-- A step on a request word rejects it for the first check that applies (R98, R103), and performs
its request where none does. -/
theorem step_eq_firstCheck {s t : State} {w : ReqWord} (hf : fetch s = (.request w, t)) :
    step s =
      if BadOpcode w then .next (reject .badOpcode t)
      else if BadPort t.port w then .next (reject .badPort t)
      else if BadReserved w then .next (reject .badReserved t)
      else if BadIndex t.cfg.n w then .next (reject .badIndex t)
      else exec (requestOf w) t := by
  have hd := decode_eq_firstCheck t.cfg.n t.port w
  split_ifs at hd ⊢
  case neg => exact step_of_fetch_request hf hd
  all_goals exact step_of_fetch_rejected hf hd

theorem exec_requestOf (w : ReqWord) (t : State) :
    exec (requestOf w) t =
      if opField w = 1 then exec (.parse (opndByte w)) t
      else if opField w = 2 then exec (.encode (opndField w)) t
      else if opField w = 3 then exec (.read (opndByte w)) t
      else exec .cursor t := by
  unfold requestOf
  split_ifs <;> rfl

/-- Settles O10: the step answers the decoder's verdict, which is the first check that applies. -/
theorem requestVerdictsInOrder : Obligations.RequestVerdictsInOrder := by
  intro s t w hf
  rw [step_eq_firstCheck hf, exec_requestOf]
  rfl

/-- Settles O23: the meaning of PARSE checks the port itself (log entry 14). -/
theorem parseOnPortCIsRejected : Obligations.ParseOnPortCIsRejected := by
  intro s b hp
  rw [exec_parse_portC b hp, ← hp]
  rfl

end Sys2Proof.Machine
end

section
/-! PROOFS. The reader of responses (R53 to R56; log entry 17): it reads exactly the words FRAMER
makes, and a step answers one of them. -/

namespace Sys2Proof.Machine

/-! ### What the reader accepts -/

/-- The data an accepted request other than PARSE can answer (R56). -/
theorem dataOk_iff (op : BitVec 4) (d : FrameWord) :
    dataOk op d = true ↔
      op = 2 ∨ (op = 3 ∧ d.extractLsb' 32 32 = 0) ∨ (op = 4 ∧ d.extractLsb' 8 56 = 0) := by
  unfold dataOk
  split_ifs with h2 h3 h4 <;> simp_all

theorem psOfCode_eq_some_iff (c : BitVec 2) (st : ParseStatus) :
    psOfCode c = some st ↔ c = psCode st :=
  ⟨eq_psCode, fun h => h ▸ psOfCode_psCode st⟩

theorem ne_parse_of_dataOk {op : BitVec 4} {d : FrameWord} (h : dataOk op d = true) : op ≠ 1 := by
  rintro rfl
  cases h

/-- A status is read exactly after a PARSE, from its code (R55). -/
theorem readAccepted_eq_parsed_iff (op : BitVec 4) (ps : BitVec 2) (d : FrameWord)
    (st : ParseStatus) :
    readAccepted op ps d = some (.parsed st) ↔ op = 1 ∧ ps = psCode st ∧ d = 0 := by
  unfold readAccepted
  split_ifs with hop hd h
  · simp [hop, hd, psOfCode_eq_some_iff]
  · exact ⟨nofun, fun ⟨_, _, hd'⟩ => absurd hd' hd⟩
  · exact ⟨nofun, fun ⟨hop', _⟩ => absurd hop' hop⟩
  · exact ⟨nofun, fun ⟨hop', _⟩ => absurd hop' hop⟩

/-- Data is read exactly after another request, with no status in `PS` (R55, R56). -/
theorem readAccepted_eq_answered_iff (op : BitVec 4) (ps : BitVec 2) (d e : FrameWord) :
    readAccepted op ps d = some (.answered e) ↔ dataOk op d = true ∧ ps = noStatus ∧ d = e := by
  unfold readAccepted
  split_ifs with hop hd h
  · simp only [Option.map_eq_some_iff, reduceCtorEq, and_false, exists_false, false_iff]
    exact fun ⟨hok, _⟩ => ne_parse_of_dataOk hok hop
  · exact ⟨nofun, fun ⟨hok, _⟩ => absurd hop (ne_parse_of_dataOk hok)⟩
  · simp [h]
  · exact ⟨nofun, fun ⟨hd, hps, _⟩ => absurd ⟨hps, hd⟩ h⟩

theorem readAccepted_ne_rejected (op : BitVec 4) (ps : BitVec 2) (d : FrameWord) (c : Reject) :
    readAccepted op ps d ≠ some (.rejected c) := by
  unfold readAccepted
  split_ifs <;> simp

/-- A response is read by its `PS` and `DATA` if its request was accepted (R53, R54). -/
theorem readResponse_ok (op : BitVec 4) (ps : BitVec 2) (d : FrameWord) :
    readResponse op (responseWord .ok ps d) = readAccepted op ps d := by
  simp [readResponse]

/-- The response of a rejection is read as its cause where `PS` and `DATA` are 0 (R54, R55). -/
theorem readResponse_rejected (op : BitVec 4) (c : Reject) (ps : BitVec 2) (d : FrameWord) :
    readResponse op (responseWord (.rejected c) ps d) =
      if ps = noStatus ∧ d = 0 then some (.rejected c) else none := by
  simp [readResponse]

/-- A word that is read has the form of a response (R53). -/
theorem exists_responseWord {op : BitVec 4} {w : RespWord} {x : Reading}
    (h : readResponse op w = some x) : ∃ rc ps d, w = responseWord rc ps d := by
  unfold readResponse at h
  by_cases hz : respZ w = 0
  · cases hrc : rcOfCode (respRc w) with
    | none => simp [hrc] at h
    | some rc => exact ⟨rc, _, _, eq_responseWord hz (eq_rcCode hrc)⟩
  · rw [if_pos hz] at h
    cases h

/-- What the reader reads: an accepted request's response by its fields, a rejection's as its
cause. -/
theorem readResponse_eq_some_iff (op : BitVec 4) (w : RespWord) (x : Reading) :
    readResponse op w = some x ↔
      (∃ ps d, w = responseWord .ok ps d ∧ readAccepted op ps d = some x) ∨
        ∃ c, w = responseWord (.rejected c) noStatus 0 ∧ x = .rejected c := by
  constructor
  · intro h
    obtain ⟨rc, ps, d, rfl⟩ := exists_responseWord h
    cases rc with
    | ok => exact .inl ⟨ps, d, rfl, readResponse_ok op ps d ▸ h⟩
    | rejected c =>
      rw [readResponse_rejected] at h
      split_ifs at h with hf
      obtain ⟨rfl, rfl⟩ := hf
      cases h
      exact .inr ⟨c, rfl, rfl⟩
  · rintro (⟨ps, d, rfl, h⟩ | ⟨c, rfl, rfl⟩)
    · rw [readResponse_ok, h]
    · simp [readResponse_rejected]

/-- Settles O5: each reading by the fields it is read from. -/
theorem responseFieldsReadBack : Obligations.ResponseFieldsReadBack := by
  intro op w x
  rw [readResponse_eq_some_iff]
  cases x with
  | parsed st => simp [readAccepted_eq_parsed_iff, and_comm]
  | answered d => simp [readAccepted_eq_answered_iff, dataOk_iff, noStatus, and_comm]
  | rejected c => simp [readAccepted_ne_rejected, noStatus]

/-- Settles O4: the packing of six closed responses. -/
theorem responseWordExamples : Obligations.ResponseWordExamples := by
  unfold Obligations.ResponseWordExamples
  decide

/-! ### The response of a step -/

/-- A value that fits below a field leaves the field 0. -/
theorem extractLsb'_eq_zero_of_lt {n start : Nat} (len : Nat) {x : BitVec n}
    (h : x.toNat < 2 ^ start) : x.extractLsb' start len = 0 := by
  apply BitVec.eq_of_toNat_eq
  simp [BitVec.extractLsb'_toNat, Nat.shiftRight_eq_div_pow, Nat.div_eq_of_lt h]

/-- A request other than PARSE that may be performed is answered with the data of its opcode (R56,
R91, R93, R94). -/
theorem exec_other_data {i : Instr} {s t : State} (hi : StateInv s) (hn : ∀ b, i ≠ .parse b)
    (hw : i.WellFormed s.cfg.n s.port = true) (h : exec i s = .next t) :
    ∃ d, t.resp = some ⟨s.port, responseWord .ok noStatus d⟩ ∧
      dataOk (opField (encode i)) d = true := by
  cases i with
  | parse b => exact absurd rfl (hn b)
  | encode w =>
    cases h
    exact ⟨_, rfl, by simp [encode, dataOk]⟩
  | read k =>
    rcases execRead_next h with ⟨hk, -⟩ | ⟨-, v, u, hm, rfl⟩
    · exact absurd ((wellFormed_read_iff ..).mp hw) (Nat.not_lt.mpr hk)
    · refine ⟨v.setWidth 64, ?_, ?_⟩
      · rcases memRead_ok hm with ⟨-, rfl⟩ | ⟨-, rfl⟩ <;> rfl
      · rw [dataOk_iff]
        refine .inr (.inl ⟨by simp [encode], ?_⟩)
        exact extractLsb'_eq_zero_of_lt 32
          ((BitVec.toNat_setWidth_of_le (by decide)).trans_lt v.isLt)
  | cursor =>
    cases h
    refine ⟨_, rfl, (dataOk_iff _ _).mpr (.inr (.inr ⟨rfl, ?_⟩))⟩
    have hcur : visCur s < 2 ^ 8 := hi.visCur_lt.trans_le s.cfg.n_le
    exact extractLsb'_eq_zero_of_lt 56
      ((BitVec.toNat_ofNat .. ▸ Nat.mod_le ..).trans_lt hcur)

/-- A performed request's response is read as a status after a PARSE, and as data after any
other. -/
theorem exec_response_read {i : Instr} {s t : State} (hi : StateInv s)
    (hw : i.WellFormed s.cfg.n s.port = true) (h : exec i s = .next t) :
    ∃ (r : RespWord) (x : Reading), t.resp = some ⟨s.port, r⟩ ∧
      readResponse (opField (encode i)) r = some x ∧
      match (generalizing := false) i with
      | .parse _ => ∃ st, x = .parsed st
      | _ => ∃ d, x = .answered d := by
  by_cases hp : ∃ b, i = .parse b
  · obtain ⟨b, rfl⟩ := hp
    obtain ⟨st, v, hcase, rfl⟩ := exec_parse_portI ((wellFormed_parse_iff ..).mp hw) h
    refine ⟨responseWord .ok (psCode st) 0, .parsed st, ?_, ?_, st, rfl⟩
    · rw [respond_resp, hcase.surroundings.port]
    · exact (responseFieldsReadBack _ _ _).mpr ⟨opField_reqWord .., rfl⟩
  · have hn := not_exists.mp hp
    obtain ⟨d, hresp, hdata⟩ := exec_other_data hi hn hw h
    refine ⟨_, .answered d, hresp,
      (responseFieldsReadBack _ _ _).mpr ⟨(dataOk_iff _ _).mp hdata, rfl⟩, ?_⟩
    cases i with
    | parse b => exact absurd rfl (hn b)
    | _ => exact ⟨d, rfl⟩

/-- Settles O50: a rejected word is answered with its cause, and an accepted one is its request's
encoding, so its opcode is that request's. -/
theorem everyResponseIsRead : Obligations.EveryResponseIsRead := by
  intro s t u w hi hf hs
  cases hd : decode u.cfg.n u.port w with
  | error c =>
    rw [step_of_fetch_rejected hf hd] at hs
    cases hs
    exact ⟨_, .rejected c, reject_resp c u, (responseFieldsReadBack _ _ _).mpr rfl, rfl⟩
  | ok i =>
    obtain ⟨rfl, hw⟩ := acceptedWordIsTheEncoding _ _ _ _ hd
    rw [step_of_fetch_request hf hd] at hs
    obtain ⟨r, x, hresp, hread, hx⟩ :=
      exec_response_read (hi.of_sameFramer (fetch_sameFramer hf)) hw hs
    exact ⟨r, x, hresp, hread, by cases i <;> exact hx⟩

end Sys2Proof.Machine
end

section
/-! PROOFS. PARSE in each state of the parser (R70 to R74), and the idle parser that a frame's end
or a trailer mismatch leaves (R81). -/

namespace Sys2Proof.Machine

/-- A PARSE on port I of a byte whose transition is known answers its status there, and leaves the
transition's state otherwise. -/
theorem ParseCase.exec_responds {b : Byte} {s t : State} {st : ParseStatus}
    (h : ParseCase b s st t) (hp : s.port = .portI) :
    exec (.parse b) s =
      .next { t with resp := some ⟨.portI, responseWord .ok (psCode st) 0⟩ } := by
  rw [h.exec_eq hp, respond, h.surroundings.port, hp]

/-- Settles O18: the first case of the header search. -/
theorem parseInWaitHead1 : Obligations.ParseInWaitHead1 :=
  fun _ _ hp hps => (ParseCase.headerOne hps).exec_responds hp

/-- Settles O19: the second case of the header search. -/
theorem parseInWaitHead2 : Obligations.ParseInWaitHead2 :=
  fun _ _ hp hps => (ParseCase.headerTwo hps).exec_responds hp

/-- Settles O20: the case of a byte filled. -/
theorem parseInReceiveData : Obligations.ParseInReceiveData :=
  fun _ _ hc hp hps => (ParseCase.data hps hc).exec_responds hp

/-- Settles O21: `T1` is a trailer byte accepted, any other byte a mismatch. -/
theorem parseInWaitTail1 : Obligations.ParseInWaitTail1 := by
  intro s b hp hps
  split
  case isTrue hb => exact (ParseCase.trailerOne hps hb).exec_responds hp
  case isFalse hb => exact (ParseCase.mismatch (.inl ⟨hps, hb⟩)).exec_responds hp

/-- Settles O22: `T2` completes the frame with the PUSH of the store's setting, and any other byte
is a mismatch. -/
theorem parseInWaitTail2 : Obligations.ParseInWaitTail2 := by
  refine fun s b old hp hps hold => ⟨fun hb hv => ?_, fun hb hv => ?_, fun hb => ?_⟩
  · exact (ParseCase.complete hps hb _ (push_lag1 _ hv hold)).exec_responds hp
  · exact (ParseCase.complete hps hb _ (push_atomic _ hv hold)).exec_responds hp
  · exact (ParseCase.mismatch (.inr ⟨hps, hb⟩)).exec_responds hp

/-- A transition that answers `Complete` or `Error` leaves the parser idle (R73, R74). -/
theorem ParseCase.idle {b : Byte} {s t : State} {st : ParseStatus} (h : ParseCase b s st t)
    (hst : st = .complete ∨ st = .error) : t.ps = .waitHead1 ∧ t.cnt = 0 := by
  cases h with
  | mismatch => exact ⟨rfl, rfl⟩
  | complete => exact ⟨rfl, rfl⟩
  | _ => rcases hst with hst | hst <;> cases hst

/-- A response holds the status it was made with (R53, R55). -/
theorem status_eq_of_responded {t : State} {p : Port} {rc rc' : ResultCode} {st st' : ParseStatus}
    {d d' : FrameWord} (h : Responded (respond rc (psCode st) d t) p rc' (psCode st') d') :
    st = st' := by
  obtain ⟨-, hword⟩ := Response.mk.inj (Option.some.inj h)
  have hps := congrArg respPs hword
  rw [respPs_responseWord, respPs_responseWord] at hps
  exact psCode_inj hps

/-- `H1` is accepted by an idle parser (R70). -/
theorem exec_parse_h1 {s : State} (hp : s.port = .portI) (hps : s.ps = .waitHead1) :
    ∃ u, exec (.parse s.cfg.h1) s = .next u ∧ u.ps = .waitHead2 :=
  ⟨_, (ParseCase.headerOne hps).exec_eq hp, if_pos rfl⟩

/-- Settles O27: a response on port I is no rejection of port C, and the transition that answered
`Complete` or `Error` leaves the parser idle, on the port from which `H1` is then parsed. -/
theorem parserIdleAfterErrorOrComplete : Obligations.ParserIdleAfterErrorOrComplete := by
  intro s t b h hresp
  rcases execParse_next h with ⟨hp, rfl⟩ | ⟨hp, st, u, hcase, rfl⟩
  · simp [Responded, hp] at hresp
  · have hport := hcase.surroundings.port.trans hp
    obtain ⟨hps, hcnt⟩ := hcase.idle (hresp.imp status_eq_of_responded status_eq_of_responded)
    exact ⟨hps, hcnt, exec_parse_h1 (s := respond .ok (psCode st) 0 u) hport hps⟩

end Sys2Proof.Machine
end

section
/-! PROOFS. No step stops, and a request whose turn it is is answered (R82, R88, R122). -/

namespace Sys2Proof.Machine

theorem queue_congr {s t : State} (hI : t.reqI = s.reqI) (hC : t.reqC = s.reqC) (p : Port) :
    queue p t = queue p s := by
  cases p with
  | portI => exact hI
  | portC => exact hC

/-- The request whose turn it is was the oldest of the port it is performed on (R43). -/
theorem queue_of_fetch_request {s u : State} {w : ReqWord} (h : fetch s = (.request w, u)) :
    queue u.port s = w :: queue u.port u := by
  cases fetch_eq h with
  | requestI _ ws hq => exact hq
  | requestC _ ws hq => exact hq

/-- A step on a request leaves the queues of the turn chosen, and answers on the request's port. -/
theorem step_request_ports {s t u : State} {w : ReqWord} (h : step s = .next t)
    (hf : fetch s = (.request w, u)) :
    (∀ p, queue p t = queue p u) ∧ ∃ r, t.resp = some ⟨u.port, r⟩ := by
  obtain ⟨x, v, hf', hI, hC, -, hresp⟩ := step_ports h
  obtain ⟨rfl, rfl⟩ := Prod.mk.inj (hf.symm.trans hf')
  obtain ⟨-, hr⟩ | ⟨hn, -⟩ := hresp
  · exact ⟨queue_congr hI hC, hr⟩
  · exact absurd rfl (hn w)

/-- Settles O36: the invariant gives every step a next state, and a request's step leaves of its
queue what the choice of the turn left. -/
theorem noStepStops : Obligations.NoStepStops := by
  intro s hi
  obtain ⟨t, ht⟩ := step_total hi
  refine ⟨t, ht, fun w u hf => ?_⟩
  obtain ⟨hqueue, hresp⟩ := step_request_ports ht hf
  rw [hqueue]
  exact ⟨queue_of_fetch_request hf, hresp⟩

end Sys2Proof.Machine
end

section
/-! PROOFS. A framed payload reads back (R74, R85, R87, R91, R96): a program's steps come one after
another, the frame's bytes, the PUBLISH and the READ. -/

namespace Sys2Proof.Machine

/-! ### The steps of a program still to come -/

/-- The steps to come are `es`: the turns chosen are theirs, and what waits at the ports are their
requests. -/
structure Placed (es : List Event) (s : State) : Prop where
  sched : s.sched = es.map Event.agent
  queues : ∀ p, queue p s = es.filterMap (Event.wordOn p)

/-- A program placed where no turn is chosen and nothing waits (R65). -/
theorem placed_load (pub : List Nat) (ls : List Line) {s : State} (hs : s.sched = [])
    (hI : s.reqI = []) (hC : s.reqC = []) :
    SameFramer s (load pub ls s) ∧ Placed (programEvents pub s.cfg ls) (load pub ls s) := by
  obtain ⟨same, hsched, hqueue⟩ := foldl_addEvent (programEvents pub s.cfg ls) s
  refine ⟨same, by rw [load, hsched, hs, List.nil_append], fun p => ?_⟩
  have hq : queue p s = [] := by
    cases p with
    | portI => exact hI
    | portC => exact hC
  rw [load, hqueue, hq, List.nil_append]

/-- A request performed leaves the steps to come. -/
theorem Placed.exec {es : List Event} {i : Instr} {s t : State} (ha : Placed es s)
    (h : Machine.exec i s = .next t) : Placed es t := by
  obtain ⟨hI, hC, hsched, -⟩ := exec_answers h
  exact ⟨hsched.trans ha.sched, fun p => (queue_congr hI hC p).trans (ha.queues p)⟩

/-- The state in which the turn of port `p` performs a request: `ws` wait on `p` after it, and the
turns `rest` are to come. -/
def performing (p : Port) (ws : List ReqWord) (rest : List Agent) (s : State) : State :=
  { setQueue p ws { s with sched := rest, resp := none } with port := p }

theorem performing_sched (p : Port) (ws : List ReqWord) (rest : List Agent) (s : State) :
    (performing p ws rest s).sched = rest := by
  cases p <;> rfl

theorem queue_performing (p q : Port) (ws : List ReqWord) (rest : List Agent) (s : State) :
    queue q (performing p ws rest s) = if p = q then ws else queue q s := by
  cases p <;> cases q <;> rfl

theorem sameFramer_performing (p : Port) (ws : List ReqWord) (rest : List Agent) (s : State) :
    SameFramer s (performing p ws rest s) := by
  cases p <;> exact sameFramer_ports ..

theorem step_performing {p : Port} {i : Instr} {ws : List ReqWord} {rest : List Agent} {s : State}
    (hs : s.sched = .port p :: rest) (hq : queue p s = encode i :: ws)
    (hi : i.WellFormed s.cfg.n p = true) : step s = exec i (performing p ws rest s) := by
  refine step_of_port_cons (fetch_of_port hs) ?_ (decodeOfEncodeIsTheRequest _ _ _ hi)
  cases p <;> exact hq

/-- What waits on the ports where a request of port `p` is the next step. -/
theorem Placed.queue_request {es : List Event} {p : Port} {w : ReqWord} {s : State}
    (ha : Placed (.request p w :: es) s) (q : Port) :
    queue q s = (if p = q then [w] else []) ++ es.filterMap (Event.wordOn q) := by
  rw [ha.queues q, List.filterMap_cons, Event.wordOn]
  by_cases hpq : p = q <;> simp [hpq]

/-- The step of a request that is the next of a program performs it on its port (R43, R65). -/
theorem Placed.step_request {es : List Event} {p : Port} {i : Instr} {s : State}
    (ha : Placed (.request p (encode i) :: es) s) (hi : i.WellFormed s.cfg.n p = true) :
    ∃ u, SameFramer s u ∧ u.port = p ∧ Placed es u ∧ step s = Machine.exec i u := by
  have hq : queue p s = encode i :: es.filterMap (Event.wordOn p) := by
    simpa using ha.queue_request p
  refine ⟨_, sameFramer_performing .., rfl, ⟨performing_sched .., fun q => ?_⟩,
    step_performing ha.sched hq hi⟩
  rw [queue_performing, ha.queue_request q]
  split
  case isTrue hpq => rw [hpq]
  case isFalse => rfl

/-- The publisher's turn in a state of the invariant leaves nothing pending, whether PUBLISH was
enabled or not (R87; log entry 13). -/
theorem step_publisher_turn {s : State} {rest : List Agent} (hi : StateInv s)
    (h : s.sched = .publisher :: rest) :
    step s = .next (publish { s with sched := rest, resp := none }) := by
  have hf : fetch s = takeTurn .publisher { s with sched := rest, resp := none } := by
    simp [fetch, h]
  have he : publishEnabled { s with sched := rest, resp := none } = s.pend := hi.publishEnabled_eq
  rw [takeTurn, he] at hf
  cases hp : s.pend with
  | true => rw [hp] at hf; exact step_of_fetch_publish hf
  | false => rw [hp] at hf; rw [step_of_fetch_idle hf, publish, ← hp]

theorem Placed.step_publish {es : List Event} {s : State} (ha : Placed (.publish :: es) s)
    (hi : StateInv s) :
    ∃ u, step s = .next u ∧ SameFramer (publish s) u ∧ Placed es u := by
  exact ⟨_, step_publisher_turn hi ha.sched, sameFramer_ports .., rfl,
    fun p => (queue_congr (s := s) rfl rfl p).trans (ha.queues p)⟩

/-! ### The frame's bytes -/

/-- The steps of a `feed` from the byte at offset `k` on (R66). -/
theorem drop_lineEvents_feed {c : Config} {w : Word} {k : Nat}
    (hk : k < (frameBytes c w).length) :
    (lineEvents c (.feed w)).drop k =
      .request .portI (encode (.parse (frameBytes c w)[k])) ::
        (lineEvents c (.feed w)).drop (k + 1) := by
  rw [List.drop_eq_getElem_cons (by simpa [lineEvents, feedWords] using hk)]
  simp [lineEvents, feedWords]

/-- Before the first byte an idle parser has received none of the frame. -/
theorem receiving_zero {s x : State} (w : Word) (hi : StateInv s) (hps : s.ps = .waitHead1)
    (same : SameFramer s x) : Receiving s w 0 x := by
  have hcnt : s.cnt = 0 := by simpa [hps, fillOk] using hi.fill
  exact (receiving_publishStable ..).framer same
    ⟨hi, rfl, rfl, rfl, by simp [validated, hps], by simp [hcnt]⟩

/-- The step of the frame's next byte performs its PARSE. -/
theorem Receiving.step_byte {s x : State} {w : Word} {k : Nat} {es : List Event}
    (h : Receiving s w k x) (hk : k < (frameBytes s.cfg w).length)
    (ha : Placed ((lineEvents s.cfg (.feed w)).drop k ++ es) x) :
    ∃ u, Receiving s w k u ∧ u.port = .portI ∧
      Placed ((lineEvents s.cfg (.feed w)).drop (k + 1) ++ es) u ∧
      step x = exec (.parse (frameBytes s.cfg w)[k]) u := by
  rw [drop_lineEvents_feed hk, List.cons_append] at ha
  obtain ⟨u, same, hport, hau, hstep⟩ := ha.step_request ((wellFormed_parse_iff ..).mpr rfl)
  exact ⟨u, (receiving_publishStable ..).framer same h, hport, hau, hstep⟩

/-- A run over the bytes of the frame but the last. -/
theorem Receiving.run {s x : State} {w : Word} {es : List Event} (h : Receiving s w 0 x)
    (ha : Placed (lineEvents s.cfg (.feed w) ++ es) x) {k : Nat}
    (hk : k < (frameBytes s.cfg w).length) :
    ∃ u, Sys2Proof.core.run k x = .next u ∧ Receiving s w k u ∧
      Placed ((lineEvents s.cfg (.feed w)).drop k ++ es) u := by
  induction k with
  | zero => exact ⟨x, run_zero x, h, ha⟩
  | succ k ih =>
    have hk' := Nat.lt_of_succ_lt hk
    obtain ⟨u, hrun, hu, hau⟩ := ih hk'
    obtain ⟨v, hv, hport, hav, hstep⟩ := hu.step_byte hk' hau
    obtain ⟨t, ht, -, hnext⟩ := hv.next hport hk
    exact ⟨t, (run_add 1 hrun).trans ((run_one u).trans (hstep.trans ht)), hnext, hav.exec ht⟩

/-- After all eight the payload is committed in the slot the cursor named (R74, R85). -/
theorem Receiving.run_frame {s x : State} {w : Word} {es : List Event} (h : Receiving s w 0 x)
    (ha : Placed (lineEvents s.cfg (.feed w) ++ es) x) :
    ∃ t, Sys2Proof.core.run 8 x = .next t ∧ StateInv t ∧ t.cfg = s.cfg ∧
      committedWord t s.wcur = some w ∧ Placed es t := by
  have h7 : 7 < (frameBytes s.cfg w).length := Nat.lt_succ_self 7
  obtain ⟨u, hrun, hu, hau⟩ := h.run ha h7
  obtain ⟨v, hv, hport, hav, hstep⟩ := hu.step_byte h7 hau
  obtain ⟨t, ht, -, -, -, hword, -⟩ := hv.last hport
  have hut : step u = .next t := hstep.trans ht
  exact ⟨t, (run_add 1 hrun).trans ((run_one u).trans hut),
    everyStepKeepsTheInvariant _ _ hu.inv hut, (step_cfg hut).trans hu.cfg, hword, hav.exec ht⟩

/-! ### The PUBLISH and the READ -/

/-- Once published, the committed words are what a READ sees (R44, R87). -/
theorem visWord_publish (s : State) (i : Nat) : visWord (publish s) i = committedWord s i :=
  visWord_eq_committedWord (visCell_of_notPending (publish_pend s) i)

/-- A READ of a slot index may be performed on either port (R42, R60). -/
theorem wellFormed_read_slot {n i : Nat} (p : Port) (hi : i < n) :
    (Instr.read (BitVec.ofNat 8 i)).WellFormed n p = true := by
  rw [wellFormed_read_iff, BitVec.toNat_ofNat]
  exact (Nat.mod_le ..).trans_lt hi

/-- A program's PUBLISH and READ answer the word committed in the slot read (R91). -/
theorem Placed.run_publish_read {p : Port} {i : Nat} {w : Word} {s : State}
    (ha : Placed [.publish, .request p (encode (.read (BitVec.ofNat 8 i)))] s) (hi : StateInv s)
    (hn : i < s.cfg.n) (hw : committedWord s i = some w) :
    ∃ t, Sys2Proof.core.run 2 s = .next t ∧ Responded t p .ok noStatus (w.setWidth 64) := by
  obtain ⟨u, hpublish, hu, hau⟩ := ha.step_publish hi
  have hcfg : u.cfg = s.cfg := hu.cfg
  obtain ⟨v, hv, rfl, -, hread⟩ :=
    hau.step_request (wellFormed_read_slot p (hcfg ▸ hn))
  have same := hu.trans hv
  obtain ⟨t, ht, hresp⟩ : Answers (.read (BitVec.ofNat 8 i)) v (w.setWidth 64) :=
    answers_read (by rw [same.cfg]; exact hn)
      ((same.visWord_eq i).trans ((visWord_publish s i).trans hw))
  exact ⟨t, (run_succ 1 hpublish).trans ((run_one u).trans (hread.trans ht)), hresp⟩

/-- Settles O46: the frame's eight steps commit its payload, the PUBLISH makes it visible and the
READ answers it. -/
theorem framedPayloadReadsBack : Obligations.FramedPayloadReadsBack := by
  intro s w p pub hi hps hs hI hC
  obtain ⟨same, ha⟩ := placed_load pub [.feed w, .publish, .read p (BitVec.ofNat 8 s.wcur)] hs hI hC
  have hevents : programEvents pub s.cfg [.feed w, .publish, .read p (BitVec.ofNat 8 s.wcur)] =
      lineEvents s.cfg (.feed w) ++
        [.publish, .request p (encode (.read (BitVec.ofNat 8 s.wcur)))] := by
    simp [programEvents, lineEvents]
  rw [hevents] at ha
  obtain ⟨t, hrun, hti, hcfg, hword, hat⟩ := (receiving_zero w hi hps same).run_frame ha
  obtain ⟨v, hread, hresp⟩ := hat.run_publish_read hti (hcfg ▸ hi.cursor) hword
  exact ⟨v, (run_add 2 hrun).trans hread, hresp⟩

end Sys2Proof.Machine
end

section
/-! PROOFS. The publisher's chosen turn (R87). -/

namespace Sys2Proof.Machine

/-- The publisher's chosen turn is a PUBLISH while PUBLISH is enabled (R87), and else an idle step
(log entry 13). -/
theorem step_of_publisher {s : State} {rest : List Agent} (h : s.sched = .publisher :: rest) :
    step s = .next (if publishEnabled s then publish { s with sched := rest, resp := none }
      else { s with sched := rest, resp := none }) := by
  have hf : fetch s = takeTurn .publisher { s with sched := rest, resp := none } := by
    simp [fetch, h]
  have he : publishEnabled { s with sched := rest, resp := none } = publishEnabled s := rfl
  rw [takeTurn, he] at hf
  split
  case isTrue hp => rw [if_pos hp] at hf; exact step_of_fetch_publish hf
  case isFalse hp => rw [if_neg hp] at hf; exact step_of_fetch_idle hf

/-- Settles O12: PUBLISH is enabled exactly while a push is pending under `LAG1`, and writes the
pending mark alone. -/
theorem publishClearsThePendingPush : Obligations.PublishClearsThePendingPush := by
  refine fun s rest h => ⟨fun hp hv => ?_, fun hn => ?_⟩
  · rw [step_of_publisher h, if_pos ((publishEnabled_iff s).mpr ⟨hp, hv⟩)]
    rfl
  · rw [step_of_publisher h, if_neg (by simp [not_publishEnabled hn])]

end Sys2Proof.Machine
end

section
/-! PROOFS. The difference of two CURSOR answers (R84, R86, R91, R93, R119): the pushes since a state
of the invariant, whatever its slots held, counted from the slot of the first of them. -/

namespace Sys2Proof.Machine

/-! ### Slots counted from a slot -/

/-- Fewer than `n` pushes one after another go to different slots (R84). -/
theorem slot_ne_of_lt {n c k m : Nat} (hkm : k < m) (hmn : m < k + n) :
    (c + k) % n ≠ (c + m) % n := by
  intro h
  have hmod : k ≡ m [MOD n] := Nat.ModEq.add_left_cancel' c h
  have := Nat.le_of_dvd (by omega) ((Nat.modEq_iff_dvd' hkm.le).mp hmod)
  omega

/-- The way from a slot to the slot `m` after it, modulo `n` (R119). -/
theorem slot_difference {n c m : Nat} (hc : c < n) (hm : m < n) :
    ((c + m) % n + n - c) % n = m := by
  rcases Nat.lt_or_ge (c + m) n with h | h
  · rw [Nat.mod_eq_of_lt h, show c + m + n - c = m + n by omega, Nat.add_mod_right,
      Nat.mod_eq_of_lt hm]
  · rw [Nat.mod_eq_sub_mod h, Nat.mod_eq_of_lt (by omega : c + m - n < n),
      show c + m - n + n - c = m by omega, Nat.mod_eq_of_lt hm]

/-! ### The store's part of a step -/

theorem SameStore.publish {s t : State} (h : SameStore s t) :
    SameStore (publish s) (publish t) :=
  ⟨h.cfg, h.store, h.wcur, rfl, h.pidx, h.pold, h.poldw⟩

/-- All a step that is no reset does to the store's part of the state: a PUSH of the buffer's payload
if it completes a frame, and otherwise nothing or a PUBLISH (R78, R85, R87). -/
theorem step_store {s t : State} (h : step s = .next t) (hr : ∀ v, fetch s ≠ (.reset, v)) :
    (Completed t ∧ ∃ u v, SameStore s u ∧ push (payloadWord s.buf) u = .ok v ∧ SameStore v t) ∨
      (¬ Completed t ∧ (SameStore s t ∨ SameStore (publish s) t)) := by
  cases step_case h with
  | quiet same noFrame => exact .inr ⟨noFrame, .inl same.toSameStore⟩
  | @publish u turn =>
    exact .inr ⟨not_completed_of_noResponse ((publish_resp u).trans (fetch_resp turn)),
      .inr (fetch_sameFramer turn).toSameStore.publish⟩
  | reset turn => exact absurd turn (hr _)
  | @parse _ u v _ st turn _ _ parsed =>
    have same := fetch_sameFramer turn
    rw [completed_respond_iff]
    by_cases hst : st = .complete
    · subst hst
      obtain ⟨x, hx, rfl⟩ := parsed.completed
      rw [same.buf] at hx
      exact .inl ⟨rfl, u, x, same.toSameStore, hx, by constructor <;> rfl⟩
    · exact .inr ⟨hst, .inl ((same.toSameStore.trans (parsed.sameStore hst)).trans
        (sameFramer_respond ..).toSameStore)⟩

/-! ### The pushes since a state -/

/-- The committed state is what the pushes `l`, the first of them to slot `c`, leave of a store that
held anything before them: each that fewer than `N` others follow is in its slot, and the cursor is
after the last (R84, R85). -/
structure PushedFrom (c : Nat) (l : List Word) (s : State) : Prop where
  cursor : s.wcur = (c + l.length) % s.cfg.n
  word : ∀ k, k < l.length → l.length ≤ k + s.cfg.n →
    committedWord s ((c + k) % s.cfg.n) = l[k]?
  pendingExists : s.pend = true → l ≠ []

/-- In a state of the invariant the pending push is the one push to the slot CURSOR names (R25). -/
theorem StateInv.pushedFrom {s : State} (hi : StateInv s) :
    PushedFrom (visCur s) (pendingPush s) s := by
  cases hp : s.pend with
  | false =>
    have hcur : visCur s = s.wcur := by simp [visCur, hp]
    have hnone : pendingPush s = [] := by simp [pendingPush, hp]
    rw [hcur, hnone]
    exact ⟨(Nat.mod_eq_of_lt hi.cursor).symm, fun _ hk => absurd hk (Nat.not_lt_zero _),
      by simp [hp]⟩
  | true =>
    obtain ⟨w, hw⟩ := Option.ne_none_iff_exists'.mp (hi.pendingWritten hp)
    have hcur : visCur s = s.pidx := if_pos hp
    have hone : pendingPush s = [w] := by simp [pendingPush, hp, hw]
    rw [hcur, hone]
    refine ⟨(hi.pendingIsLast hp).symm, fun k hk _ => ?_, by simp⟩
    obtain rfl : k = 0 := Nat.lt_one_iff.mp hk
    rw [Nat.add_zero, Nat.mod_eq_of_lt hi.pendingSlot, hw]
    rfl

theorem PushedFrom.of_sameStore {c : Nat} {l : List Word} {s t : State} (h : PushedFrom c l s)
    (same : SameStore s t) : PushedFrom c l t where
  cursor := by rw [same.wcur, same.cfg]; exact h.cursor
  word k hk hn := by
    rw [same.cfg] at hn ⊢
    exact (same.committedWord_eq _).trans (h.word k hk hn)
  pendingExists := by rw [same.pend]; exact h.pendingExists

theorem PushedFrom.publish {c : Nat} {l : List Word} {s : State} (h : PushedFrom c l s) :
    PushedFrom c l (publish s) :=
  ⟨h.cursor, h.word, by simp⟩

/-- A PUSH is one more, in the slot the cursor named, which is that of none of the last `N-1` before
it (R84, R86). -/
theorem PushedFrom.push {c : Nat} {l : List Word} {w : Word} {s t : State} (h : PushedFrom c l s)
    (hp : push w s = .ok t) : PushedFrom c (l ++ [w]) t := by
  obtain ⟨hcfg, hcur⟩ : t.cfg = s.cfg ∧ t.wcur = (s.wcur + 1) % s.cfg.n := by
    obtain ⟨_, _, _, _, rfl⟩ := push_writes hp
    exact ⟨rfl, rfl⟩
  refine ⟨?_, fun k hk hn => ?_, by simp⟩
  · rw [hcur, hcfg, h.cursor, Nat.mod_add_mod, List.length_append, List.length_singleton,
      Nat.add_assoc]
  · rw [List.length_append, List.length_singleton] at hk hn
    rw [hcfg] at hn ⊢
    rw [committedWord_push hp, h.cursor]
    rcases Nat.lt_succ_iff_lt_or_eq.mp hk with hlt | rfl
    · rw [if_neg (slot_ne_of_lt hlt (by omega)), List.getElem?_append_left hlt]
      exact h.word k hlt (by omega)
    · simp

/-- A step that is no reset adds the payload of the frame it completes, if it completes one. -/
theorem PushedFrom.step {c : Nat} {l : List Word} {s t : State} (h : PushedFrom c l s)
    (hs : step s = .next t) (hr : ∀ v, fetch s ≠ (.reset, v)) :
    (Completed t → PushedFrom c (l ++ [payloadWord s.buf]) t) ∧
      (¬ Completed t → PushedFrom c l t) := by
  rcases step_store hs hr with ⟨hc, u, v, hu, hp, hv⟩ | ⟨hn, same | same⟩
  · exact ⟨fun _ => ((h.of_sameStore hu).push hp).of_sameStore hv, fun hn => absurd hc hn⟩
  · exact ⟨fun hc => absurd hc hn, fun _ => h.of_sameStore same⟩
  · exact ⟨fun hc => absurd hc hn, fun _ => h.publish.of_sameStore same⟩

/-- A run without a reset adds the payloads of its frames in order. -/
theorem PushedFrom.run {c : Nat} {l ws : List Word} {s t : State} (h : PushedFrom c l s)
    (hrun : PushRun s ws t) : PushedFrom c (l ++ ws) t := by
  induction hrun with
  | here => rwa [List.append_nil]
  | quiet _ noReset next noFrame ih => exact (ih.step next noReset).2 noFrame
  | complete _ noReset next frame ih =>
    rw [← List.append_assoc]
    exact (ih.step next noReset).1 frame

theorem PushRun.cfg_eq {s t : State} {ws : List Word} (h : PushRun s ws t) : t.cfg = s.cfg := by
  induction h with
  | here => rfl
  | quiet _ _ next _ ih => exact (step_cfg next).trans ih
  | complete _ _ next _ ih => exact (step_cfg next).trans ih

theorem PushRun.stateInv {s t : State} {ws : List Word} (h : PushRun s ws t) (hi : StateInv s) :
    StateInv t := by
  induction h with
  | here => exact hi
  | quiet _ _ next _ ih => exact everyStepKeepsTheInvariant _ _ ih next
  | complete _ _ next _ ih => exact everyStepKeepsTheInvariant _ _ ih next

/-! ### What a reader sees of them -/

theorem length_visiblePushes {s : State} {l : List Word} (hne : s.pend = true → l ≠ []) :
    (visiblePushes s l).length + s.pend.toNat = l.length := by
  cases hp : s.pend with
  | false => simp [visiblePushes, hp]
  | true =>
    have hpos := List.length_pos_iff.mpr (hne hp)
    simp only [visiblePushes, hp, if_true, List.length_dropLast, Bool.toNat_true]
    omega

/-- The pushes a reader sees are the first of all of them. -/
theorem getElem?_visiblePushes {s : State} {l : List Word} {k : Nat}
    (hk : k < (visiblePushes s l).length) : (visiblePushes s l)[k]? = l[k]? := by
  unfold visiblePushes at hk ⊢
  split at hk
  case isTrue hp =>
    rw [if_pos hp, List.getElem?_dropLast, if_pos (by simpa using hk)]
  case isFalse hp => rw [if_neg hp]

/-- CURSOR names the slot after the last push a reader sees: the pending one's slot, or the committed
cursor (R25, R44). -/
theorem PushedFrom.visCur_eq {c : Nat} {l : List Word} {s : State} (h : PushedFrom c l s)
    (hi : StateInv s) : visCur s = (c + (visiblePushes s l).length) % s.cfg.n := by
  have hlen := length_visiblePushes h.pendingExists
  have hcur := h.cursor
  cases hp : s.pend with
  | false =>
    rw [hp] at hlen
    rw [visCur, hp, hcur, ← hlen]
    simp
  | true =>
    rw [hp] at hlen
    rw [← hi.pendingIsLast hp, ← hlen, Bool.toNat_true, ← Nat.add_assoc] at hcur
    have hmod : s.pidx ≡ c + (visiblePushes s l).length [MOD s.cfg.n] :=
      Nat.ModEq.add_right_cancel' 1 hcur
    rw [visCur, if_pos hp, ← hmod, Nat.mod_eq_of_lt hi.pendingSlot]

/-- Up to `N-1` pushes that a reader sees are all in their slots, since the pending push goes to the
slot after theirs (R44, R84). -/
theorem PushedFrom.visWord_eq {c k : Nat} {l : List Word} {s : State} (h : PushedFrom c l s)
    (hi : StateInv s) (hfit : (visiblePushes s l).length + 1 ≤ s.cfg.n)
    (hk : k < (visiblePushes s l).length) :
    visWord s ((c + k) % s.cfg.n) = (visiblePushes s l)[k]? := by
  have hlen := length_visiblePushes h.pendingExists
  have hpend := s.pend.toNat_le
  have hcell : visCell s ((c + k) % s.cfg.n) = s.store[(c + k) % s.cfg.n]? := by
    apply visCell_committed
    cases hp : s.pend with
    | false => exact .inl rfl
    | true =>
      have hidx : visCur s = s.pidx := if_pos hp
      rw [← hidx, h.visCur_eq hi]
      exact .inr (slot_ne_of_lt hk (by omega))
  rw [visWord_eq_committedWord hcell, h.word k (by omega) (by omega), getElem?_visiblePushes hk]

/-- Settles O43: the pushes are counted from the slot the first CURSOR names, the one pending then
being the first of them; the second CURSOR names the slot after the last that a reader sees, and READ
finds each of these in its slot. -/
theorem cursorDifferenceCountsNewPayloads : Obligations.CursorDifferenceCountsNewPayloads := by
  rintro s t ws new hi hrun rfl hfit
  have hpushed := hi.pushedFrom.run hrun
  have hit := hrun.stateInv hi
  rw [← hrun.cfg_eq] at hfit ⊢
  have hc₁ : visCur s < t.cfg.n := hrun.cfg_eq ▸ hi.visCur_lt
  refine ⟨visCur s, visCur t, hc₁, hit.visCur_lt, answers_cursor s, answers_cursor t, ?_,
    fun k hk => ?_⟩
  · rw [hpushed.visCur_eq hit]
    exact slot_difference hc₁ hfit
  · have hw := List.getElem?_eq_getElem hk
    exact ⟨_, hw, answers_read (Nat.mod_lt _ t.cfg.n_pos)
      ((hpushed.visWord_eq hit hfit hk).trans hw)⟩

end Sys2Proof.Machine
end

section
/-! PROOFS. The Frame Encoder (R94, R95). -/

namespace Sys2Proof.Machine

/-- The frame word by the bit fields of its payload word (R33, R35, R36). -/
theorem frameWord_eq_fields (c : Config) (w : Word) :
    frameWord c w = c.t2 ++ c.t1 ++ w.extractLsb' 24 8 ++ w.extractLsb' 16 8 ++ w.extractLsb' 8 8
      ++ w.extractLsb' 0 8 ++ c.h2 ++ c.h1 :=
  rfl

/-- ENCODE writes the response alone (R95). -/
theorem exec_encode {s : State} {w : Word} {f : FrameWord} (h : frameWord s.cfg w = f) :
    exec (.encode w) s = .next { s with resp := some ⟨s.port, responseWord .ok noStatus f⟩ } := by
  subst h; rfl

/-- Settles O31: the response's data is the frame word, which is made of the payload's bit fields and
the marker bytes. -/
theorem encodeAnswersTheFrame : Obligations.EncodeAnswersTheFrame :=
  fun s w => exec_encode (frameWord_eq_fields s.cfg w)

end Sys2Proof.Machine
end

section
/-! PROOFS. What the reset input sets (R112). -/

namespace Sys2Proof.Machine

/-- Settles O13: the values of R112 are written by the reset input, the ranges of R17 are the
invariant's, which it establishes, and the choice of the turn has cleared the response. -/
theorem resetInputSetsTheState : Obligations.ResetInputSetsTheState := by
  intro s rest h
  have hi := stateInv_resetInput { s with sched := rest, resp := none }
  refine ⟨_, step_reset h, resetInput_ps _, resetInput_cnt _, resetInput_wcur _, resetInput_pend _,
    ?store, ?unwritten, hi.pendingSlot, resetInput_resp _⟩
  case store => exact (memory_wf_iff _ _).mp hi.slots
  case unwritten => exact fun _ hc => mem_resetStore hc

end Sys2Proof.Machine
end
